-- ==== Sys2Proof/Word.lean ====
section
/-! DEFINITION. The machine's words: a 32-bit register word, a byte, and the group of four like things
(four registers KEY[0..3], one column, one row) that the spec indexes by 0..3. -/

namespace Sys2Proof

/-- A word is a 32-bit unsigned value, bit 0 the least significant (00_scope.md R8). -/
abbrev Word := BitVec 32

/-- A byte is an 8-bit unsigned value (00_scope.md R8). -/
abbrev Byte := BitVec 8

/-- Four like things, indexed 0..3: KEY[0..3], DIN[0..3], DOUT[0..3], the rows of S, the cells of a row. -/
structure Quad (α : Type) where
  a0 : α
  a1 : α
  a2 : α
  a3 : α
  deriving DecidableEq, Repr

namespace Quad

/-- Element `i` of the four. -/
def get {α : Type} (q : Quad α) (i : Fin 4) : α :=
  match i with
  | 0 => q.a0
  | 1 => q.a1
  | 2 => q.a2
  | 3 => q.a3

/-- The four values of a function on 0..3. -/
def ofFn {α : Type} (f : Fin 4 → α) : Quad α :=
  ⟨f 0, f 1, f 2, f 3⟩

/-- Element `i` replaced, the other three kept. -/
def set {α : Type} (q : Quad α) (i : Fin 4) (v : α) : Quad α :=
  match i with
  | 0 => { q with a0 := v }
  | 1 => { q with a1 := v }
  | 2 => { q with a2 := v }
  | 3 => { q with a3 := v }

/-- Four copies of one value. -/
def all {α : Type} (v : α) : Quad α :=
  ⟨v, v, v, v⟩

end Quad

end Sys2Proof
end

