-- ==== Sys2Proof/Config.lean ====
section
/-! DEFINITION. What the platform fixes and the spec leaves OPEN (92_eei_decisions.md, first table):
the base address of the register window. CMD_LATENCY is the other OPEN parameter; no rule depends on it
and the clock is not state (R7, R301), so it is no constant here (log 6). -/

namespace Sys2Proof.Config

/-- The number of 64-byte steps at which the platform places the window. It has no body: no proof can
use a value of it (20_memory.md R68; log 3). -/
opaque aesBaseIndex : Nat

/-- `AES_BASE`, a multiple of 64 (20_memory.md R68). -/
def aesBase : Nat := 64 * aesBaseIndex

end Sys2Proof.Config
end

