-- ==== Sys2Proof/Syntax.lean ====
section
/-! DEFINITION. The 19 commands, one constructor per row of spec/opcode_table.json (30_encoding.md R94).
The immediate of ARK and RCON is the 4-bit field IMM (R92); its range is WellFormed's. -/

namespace Sys2Proof

/-- A command (30_encoding.md R94); each constructor's rule is the one that table names. -/
inductive Instr where
  /-- NOP, OP 0x00 (46_system.md R250). -/
  | nop
  /-- ZERO, OP 0x01 (46_system.md R251). -/
  | zero
  /-- KEXP, OP 0x02 (42_key_expander.md R160). -/
  | kexp
  /-- ENC, OP 0x03 (44_cipher_driver.md R223). -/
  | enc
  /-- DEC, OP 0x04 (44_cipher_driver.md R224). -/
  | dec
  /-- LOADS, OP 0x08 (45_serialization.md R243). -/
  | loads
  /-- STORES, OP 0x09 (45_serialization.md R244). -/
  | stores
  /-- SUBB, OP 0x10 (43_state_transforms.md R190). -/
  | subb
  /-- SHR, OP 0x11 (43_state_transforms.md R191). -/
  | shr
  /-- MIXC, OP 0x12 (43_state_transforms.md R192). -/
  | mixc
  /-- ARK rnd, OP 0x13, IMM = rnd (43_state_transforms.md R193). -/
  | ark (rnd : BitVec 4)
  /-- ISUBB, OP 0x18 (43_state_transforms.md R194). -/
  | isubb
  /-- ISHR, OP 0x19 (43_state_transforms.md R195). -/
  | ishr
  /-- IMIXC, OP 0x1A (43_state_transforms.md R196). -/
  | imixc
  /-- ROTW, OP 0x20 (42_key_expander.md R157). -/
  | rotw
  /-- SUBW, OP 0x21 (42_key_expander.md R158). -/
  | subw
  /-- RCON r, OP 0x22, IMM = r (42_key_expander.md R159). -/
  | rcon (r : BitVec 4)
  /-- XTIME, OP 0x28 (40_gf_arith.md R124). -/
  | xtime
  /-- GMUL, OP 0x29 (40_gf_arith.md R125). -/
  | gmul
  deriving DecidableEq, Repr

end Sys2Proof
end

