-- ==== Sys2Proof/WellFormed.lean ====
section
/-! DEFINITION. Which terms of `Instr` are commands: the range of the immediate (30_encoding.md R92, R95). -/

namespace Sys2Proof

/-- ARK's round-key index is in 0..10 (30_encoding.md R92). -/
def roundInRange (rnd : BitVec 4) : Bool := decide (rnd.toNat ≤ 10)

/-- RCON's round-constant index is in 0..9 (30_encoding.md R92). -/
def rconInRange (r : BitVec 4) : Bool := decide (r.toNat ≤ 9)

/-- A term is well formed when its immediate is in the range R92 gives it. -/
def Instr.wellFormed : Instr → Bool
  | .ark rnd => roundInRange rnd
  | .rcon r => rconInRange r
  | .nop | .zero | .kexp | .enc | .dec | .loads | .stores | .subb | .shr | .mixc
  | .isubb | .ishr | .imixc | .rotw | .subw | .xtime | .gmul => true

end Sys2Proof
end

