-- ==== Sys2Proof/Decode.lean ====
section
/-! DEFINITION. Decoding a command word (30_encoding.md R90 to R98), and after it the encoder, each
written from the tables of R90 and R94. Every command is one 32-bit word, so there is no length logic (R98). -/

namespace Sys2Proof

/-- Field OP, bits 5:0 (30_encoding.md R90, R91). -/
def opField (v : Word) : BitVec 6 := v.extractLsb' 0 6

/-- Field RSV0, bits 7:6 (30_encoding.md R90). -/
def rsv0Field (v : Word) : BitVec 2 := v.extractLsb' 6 2

/-- Field IMM, bits 11:8 (30_encoding.md R90, R92). -/
def immField (v : Word) : BitVec 4 := v.extractLsb' 8 4

/-- Field RSV1, bits 31:12 (30_encoding.md R90). -/
def rsv1Field (v : Word) : BitVec 20 := v.extractLsb' 12 20

/-- Why a word is illegal (30_encoding.md R96). The hardware keeps no such reason: it only sets ERR_ILL. -/
inductive IllegalWord where
  /-- A bit of RSV0 or RSV1 is set (R93). -/
  | reservedBitSet
  /-- OP is none of the 19 of R94 (R97). -/
  | unassignedOpcode (op : BitVec 6)
  /-- IMM is not 0 on an opcode that takes none (R92). -/
  | immediateNotZero (op : BitVec 6)
  /-- ARK with rnd in 11..15. -/
  | roundOutOfRange
  /-- RCON with r in 10..15. -/
  | rconOutOfRange
  deriving DecidableEq, Repr

/-- An opcode whose IMM must be 0 (30_encoding.md R92). -/
def withoutImmediate (op : BitVec 6) (imm : BitVec 4) (i : Instr) : Except IllegalWord Instr :=
  if imm = 0 then .ok i else .error (.immediateNotZero op)

/-- The opcode map (30_encoding.md R94): OP selects the operation, IMM is its only operand field. -/
def decodeFields (op : BitVec 6) (imm : BitVec 4) : Except IllegalWord Instr :=
  match op.toNat with
  | 0x00 => withoutImmediate op imm .nop
  | 0x01 => withoutImmediate op imm .zero
  | 0x02 => withoutImmediate op imm .kexp
  | 0x03 => withoutImmediate op imm .enc
  | 0x04 => withoutImmediate op imm .dec
  | 0x08 => withoutImmediate op imm .loads
  | 0x09 => withoutImmediate op imm .stores
  | 0x10 => withoutImmediate op imm .subb
  | 0x11 => withoutImmediate op imm .shr
  | 0x12 => withoutImmediate op imm .mixc
  | 0x13 => if roundInRange imm then .ok (.ark imm) else .error .roundOutOfRange
  | 0x18 => withoutImmediate op imm .isubb
  | 0x19 => withoutImmediate op imm .ishr
  | 0x1A => withoutImmediate op imm .imixc
  | 0x20 => withoutImmediate op imm .rotw
  | 0x21 => withoutImmediate op imm .subw
  | 0x22 => if rconInRange imm then .ok (.rcon imm) else .error .rconOutOfRange
  | 0x28 => withoutImmediate op imm .xtime
  | 0x29 => withoutImmediate op imm .gmul
  | _ => .error (.unassignedOpcode op)

/-- The command a word stands for, or the reason it stands for none (30_encoding.md R91, R93, R95). -/
def decode (v : Word) : Except IllegalWord Instr :=
  if rsv0Field v = 0 ∧ rsv1Field v = 0 then decodeFields (opField v) (immField v)
  else .error .reservedBitSet

/-- The case on `v[5:0]` in the pseudocode of 30_encoding.md R95. -/
def legalFields (op : BitVec 6) (imm : BitVec 4) : Bool :=
  match op.toNat with
  | 0x13 => decide (imm.toNat ≤ 10)
  | 0x22 => decide (imm.toNat ≤ 9)
  | 0x00 | 0x01 | 0x02 | 0x03 | 0x04 | 0x08 | 0x09 | 0x10 | 0x11 | 0x12
  | 0x18 | 0x19 | 0x1A | 0x20 | 0x21 | 0x28 | 0x29 => imm == 0
  | _ => false

/-- `legal(v)`, the pseudocode of 30_encoding.md R95. It is what acceptance tests (60_exceptions.md R261);
that it holds exactly of the words `decode` takes is a statement, not a definition. -/
def legal (v : Word) : Bool :=
  rsv1Field v == 0 && rsv0Field v == 0 && legalFields (opField v) (immField v)

/-- The column OP of the opcode map (30_encoding.md R94). -/
def Instr.opcode : Instr → BitVec 6
  | .nop => 0x00
  | .zero => 0x01
  | .kexp => 0x02
  | .enc => 0x03
  | .dec => 0x04
  | .loads => 0x08
  | .stores => 0x09
  | .subb => 0x10
  | .shr => 0x11
  | .mixc => 0x12
  | .ark _ => 0x13
  | .isubb => 0x18
  | .ishr => 0x19
  | .imixc => 0x1A
  | .rotw => 0x20
  | .subw => 0x21
  | .rcon _ => 0x22
  | .xtime => 0x28
  | .gmul => 0x29

/-- The column IMM of the opcode map (30_encoding.md R92, R94). -/
def Instr.immediate : Instr → BitVec 4
  | .ark rnd => rnd
  | .rcon r => r
  | .nop | .zero | .kexp | .enc | .dec | .loads | .stores | .subb | .shr | .mixc
  | .isubb | .ishr | .imixc | .rotw | .subw | .xtime | .gmul => 0

/-- The word of a command: OP + IMM·0x100 (30_encoding.md R94). -/
def encode (i : Instr) : Word :=
  i.opcode.setWidth 32 ||| (i.immediate.setWidth 32 <<< 8)

/-- One row of spec/opcode_table.json: the mask, the match and the range condition on IMM (30_encoding.md R94,
"As bit patterns"). -/
structure OpcodeRow where
  mnemonic : String
  mask : Word
  pattern : Word
  immMax : Nat
  deriving DecidableEq, Repr

/-- Rows of spec/opcode_table.json, in its order, first part. The decoder does not read them: statements compare it with them. -/
def opcodeRowsFirst : List OpcodeRow :=
  [⟨"NOP", 0xFFFFFFFF, 0x00000000, 0⟩, ⟨"ZERO", 0xFFFFFFFF, 0x00000001, 0⟩,
   ⟨"KEXP", 0xFFFFFFFF, 0x00000002, 0⟩, ⟨"ENC", 0xFFFFFFFF, 0x00000003, 0⟩,
   ⟨"DEC", 0xFFFFFFFF, 0x00000004, 0⟩, ⟨"LOADS", 0xFFFFFFFF, 0x00000008, 0⟩,
   ⟨"STORES", 0xFFFFFFFF, 0x00000009, 0⟩, ⟨"SUBB", 0xFFFFFFFF, 0x00000010, 0⟩,
   ⟨"SHR", 0xFFFFFFFF, 0x00000011, 0⟩, ⟨"MIXC", 0xFFFFFFFF, 0x00000012, 0⟩]

/-- Rows of spec/opcode_table.json, second part. -/
def opcodeRowsSecond : List OpcodeRow :=
  [⟨"ARK_rnd", 0xFFFFF0FF, 0x00000013, 10⟩, ⟨"ISUBB", 0xFFFFFFFF, 0x00000018, 0⟩,
   ⟨"ISHR", 0xFFFFFFFF, 0x00000019, 0⟩, ⟨"IMIXC", 0xFFFFFFFF, 0x0000001A, 0⟩,
   ⟨"ROTW", 0xFFFFFFFF, 0x00000020, 0⟩, ⟨"SUBW", 0xFFFFFFFF, 0x00000021, 0⟩,
   ⟨"RCON_r", 0xFFFFF0FF, 0x00000022, 9⟩, ⟨"XTIME", 0xFFFFFFFF, 0x00000028, 0⟩,
   ⟨"GMUL", 0xFFFFFFFF, 0x00000029, 0⟩]

/-- All rows of spec/opcode_table.json. -/
def opcodeRows : List OpcodeRow := opcodeRowsFirst ++ opcodeRowsSecond

/-- A word matches a row: the masked bits are the pattern's and IMM meets the range condition. -/
def OpcodeRow.matchesWord (row : OpcodeRow) (v : Word) : Bool :=
  (v &&& row.mask) == row.pattern && decide ((immField v).toNat ≤ row.immMax)

/-- What the decoder reads from the table's numbering of an instruction's bits. The one word is the whole
command (30_encoding.md R98), so the bits above `nbits` are 0 and a number of more than 32 bits is no command word. -/
def decodeTableWord (nbits w : Nat) : Option Instr :=
  if nbits ≤ 32 ∧ w < 2 ^ nbits then (decode (BitVec.ofNat 32 w)).toOption else none

end Sys2Proof
end

