-- ==== Sys2Proof/Machine/State.lean ====
section
/-! DEFINITION. The machine's state: all of 10_state.md R20, the agents' steps still to come, and the state
after reset (10_state.md R38). The ROMs SBOX, INV_SBOX and RCON are constants (Machine/Tables.lean, R32, R33). -/

namespace Sys2Proof.Machine

/-- A state value: rows of cells, so that `S[r][c]` is element c of row r (43_state_transforms.md R180). -/
abbrev StateMatrix := Quad (Quad Byte)

/-- One step of one agent (00_scope.md R11). An address is given by its offset from AES_BASE, as the spec
writes it: `MemRead(AES_BASE+off, n)` (20_memory.md R62; log 3). -/
inductive Event where
  /-- Host: `MemRead(AES_BASE + off, size)`. -/
  | memRead (off size : Nat)
  /-- Host: `MemWrite(AES_BASE + off, size, value)`. Only size 4 has an effect, so the value is a word (log 14). -/
  | memWrite (off size : Nat) (value : Word)
  /-- Engine: its turn to commit; nothing happens when no command is pending (60_exceptions.md R262, R278; log 7). -/
  | engine
  /-- Reset: the external reset event (70_reset_and_hazards.md R290). -/
  | reset
  deriving DecidableEq, Repr

/-- The sticky error flags of STATUS (10_state.md R29), each a cause of 60_exceptions.md R263. -/
inductive ErrorFlag where
  /-- Bit 3: a write refused because BUSY was 1. -/
  | busy
  /-- Bit 4: an illegal command word. -/
  | ill
  /-- Bit 5: ARK while KV was 0. -/
  | nokey
  deriving DecidableEq, Repr

/-- What ends a run as a fault. -/
inductive Fault where
  /-- `raise BusError(addr)`: a host transaction in the window whose size is not 4 or whose address is not a
  multiple of 4 (20_memory.md R69, 60_exceptions.md R264). Raised by `hostRead` and `hostWrite`. Safe: the
  hardware would go on with its state unchanged (log 5). -/
  | busError (addr : Nat)
  deriving DecidableEq, Repr

/-- What ends a run because the model gives no meaning. -/
inductive Refusal where
  /-- A command that has no meaning yet, by its mnemonic; only `exec`'s arms would answer it, and none does. Safe. -/
  | notModelled (mnemonic : String)
  /-- PENDING holds a word that is no command; raised by `commitPending`. Acceptance takes only legal words
  (60_exceptions.md R261), so no run from reset reaches it. Safe (log 8). -/
  | illegalPending (v : Word)
  /-- ARK with a round-key index above 10 or RCON with an index above 9; raised by `execArk` and `execRcon` on a
  term the decoder never gives (30_encoding.md R95). Safe (log 8). -/
  | immediateOutOfRange (imm : BitVec 4)
  /-- A host transaction at an address outside the 64-byte window, which is not part of this block
  (20_memory.md R68); raised by `hostRead` and `hostWrite`. Safe (log 4). -/
  | outsideWindow (addr : Nat)
  deriving DecidableEq, Repr

/-- How a step of this machine ends. -/
abbrev Outcome := Host.Outcome

/-- The state of one AES-128 CORE (10_state.md R20) and the two fields of the model's own. -/
structure State where
  /-- PENDING: the accepted command word until its commit (10_state.md R27). STATUS.BUSY is `pending ≠ none` (R25). -/
  pending : Option Word
  /-- STATUS.DONE (10_state.md R26). -/
  done : Bool
  /-- STATUS.KV (10_state.md R28). -/
  kv : Bool
  /-- STATUS.ERR_BUSY (10_state.md R29). -/
  errBusy : Bool
  /-- STATUS.ERR_ILL (10_state.md R29). -/
  errIll : Bool
  /-- STATUS.ERR_NOKEY (10_state.md R29). -/
  errNokey : Bool
  /-- WREG (10_state.md R34). -/
  wreg : Word
  /-- KEY[0..3] (10_state.md R35). -/
  key : Quad Word
  /-- DIN[0..3] (10_state.md R36). -/
  din : Quad Word
  /-- DOUT[0..3] (10_state.md R37). -/
  dout : Quad Word
  /-- S[0..3][0..3] (10_state.md R30). -/
  sMat : StateMatrix
  /-- W[0..43] (10_state.md R31). -/
  wRam : Vector Word 44
  /-- The model's own: the steps the agents will take, the next one first; after the last, the Engine moves (log 1). -/
  inputs : List Event
  /-- The model's own: the word the latest step returned to the host, `none` if it was no read (log 2). -/
  rdata : Option Word
  deriving DecidableEq, Repr

/-- The state after reset, every field as 10_state.md R38 says; nothing is scheduled and nothing was read
(DESIGN CHOICE: the model's own two fields, log 1, log 2). -/
def State.reset : State where
  pending := none
  done := false
  kv := false
  errBusy := false
  errIll := false
  errNokey := false
  wreg := 0x00000000
  key := Quad.all 0x00000000
  din := Quad.all 0x00000000
  dout := Quad.all 0x00000000
  sMat := Quad.all (Quad.all 0x00)
  wRam := Vector.replicate 44 0x00000000
  inputs := []
  rdata := none

end Sys2Proof.Machine
end

