-- ==== Sys2Proof/Machine/Operands.lean ====
section
/-! DEFINITION. The operand forms: byte positions of a word (00_scope.md R8), cells and columns of the state
matrix (43_state_transforms.md R180), the lanes of a block in four registers (20_memory.md R63 to R65), and the
byte operands of WREG (40_gf_arith.md R124, R125). -/

namespace Sys2Proof.Machine

/-- `byte_k(w) = w[8k+7:8k]`; byte position 0 is the least significant (00_scope.md R8). -/
def byteAt (w : Word) (k : Fin 4) : Byte := w.extractLsb' (8 * k.val) 8

/-- `word(b0, b1, b2, b3)` (00_scope.md R8). -/
def wordOf (b0 b1 b2 b3 : Byte) : Word :=
  b0.setWidth 32 ||| (b1.setWidth 32 <<< 8) ||| (b2.setWidth 32 <<< 16) ||| (b3.setWidth 32 <<< 24)

/-- `zext_32(v)` of a byte (00_scope.md R8). -/
def zext32 (b : Byte) : Word := b.setWidth 32

/-- `S[r][c]` (43_state_transforms.md R180). -/
def cell (m : StateMatrix) (r c : Fin 4) : Byte := (m.get r).get c

/-- The state whose cell at row r and column c is `f r c`. -/
def matrixOf (f : Fin 4 → Fin 4 → Byte) : StateMatrix :=
  Quad.ofFn fun r => Quad.ofFn fun c => f r c

/-- Column c: `(S[0][c], S[1][c], S[2][c], S[3][c])` (43_state_transforms.md R180). -/
def column (m : StateMatrix) (c : Fin 4) : Quad Byte := Quad.ofFn fun r => cell m r c

/-- The byte of a block at index 4·c + r: row r, column c of the mapping (45_serialization.md R240). -/
def blockIndex (r c : Fin 4) : Fin 16 := ⟨4 * c.val + r.val, by omega⟩

/-- `i mod 4` of a block index (45_serialization.md R241). -/
def laneOf (i : Fin 16) : Fin 4 := ⟨i.val % 4, by omega⟩

/-- `i / 4` of a block index (45_serialization.md R241). -/
def wordIndexOf (i : Fin 16) : Fin 4 := ⟨i.val / 4, by omega⟩

/-- The 16 bytes that four data registers hold: `b[i] = byte_(i mod 4)(reg[i / 4])` (20_memory.md R63 to R65). -/
def blockOfRegs (regs : Quad Word) : Vector Byte 16 :=
  Vector.ofFn fun i => byteAt (regs.get (wordIndexOf i)) (laneOf i)

/-- Four data registers holding a block: `reg[j] = word(b[4j], b[4j+1], b[4j+2], b[4j+3])` (20_memory.md R63). -/
def regsOfBlock (b : Vector Byte 16) : Quad Word :=
  Quad.ofFn fun j => wordOf b[blockIndex 0 j] b[blockIndex 1 j] b[blockIndex 2 j] b[blockIndex 3 j]

/-- `WREG[7:0]`, the operand of XTIME and operand a of GMUL (40_gf_arith.md R124, R125). -/
def wregLow (s : State) : Byte := byteAt s.wreg 0

/-- `WREG[15:8]`, operand b of GMUL (40_gf_arith.md R125). -/
def wregHigh (s : State) : Byte := byteAt s.wreg 1

end Sys2Proof.Machine
end

