-- ==== Sys2Proof/Machine/Flags.lean ====
section
/-! DEFINITION. The register STATUS: its view as a word, the sticky error flags, write-1-to-clear and the
completion flags (10_state.md R24 to R29; 60_exceptions.md R261 to R266). -/

namespace Sys2Proof.Machine

/-- STATUS.BUSY: 1 exactly when PENDING is not none (10_state.md R25). -/
def State.busy (s : State) : Bool := s.pending.isSome

/-- A flag at bit `k` of a word. -/
def flagBit (k : Nat) (b : Bool) : Word := if b then 1 <<< k else 0

/-- STATUS as the host reads it (10_state.md R24); bits 31:6 read as 0. -/
def statusWord (s : State) : Word :=
  flagBit 0 s.busy ||| flagBit 1 s.done ||| flagBit 2 s.kv |||
    flagBit 3 s.errBusy ||| flagBit 4 s.errIll ||| flagBit 5 s.errNokey

/-- Set one sticky error flag; a flag that is already 1 stays 1 (60_exceptions.md R263). -/
def setErrorFlag (f : ErrorFlag) (s : State) : State :=
  match f with
  | .busy => { s with errBusy := true }
  | .ill => { s with errIll := true }
  | .nokey => { s with errNokey := true }

/-- A host write to STATUS: DONE and the error bits are cleared where `v` has a 1; BUSY, KV and the reserved
bits are not changed; honoured whether BUSY is 0 or 1 (60_exceptions.md R266). -/
def clearStatus (v : Word) (s : State) : State :=
  { s with
    done := s.done && !v.getLsbD 1
    errBusy := s.errBusy && !v.getLsbD 3
    errIll := s.errIll && !v.getLsbD 4
    errNokey := s.errNokey && !v.getLsbD 5 }

/-- The completion flags of a commit: PENDING <- none, so BUSY <- 0, and DONE <- 1 (60_exceptions.md R262). -/
def complete (s : State) : State :=
  { s with pending := none, done := true }

end Sys2Proof.Machine
end

