-- ==== Sys2Proof/Machine/Ops.lean ====
section
/-! DEFINITION. The shared operations of the command protocol (60_exceptions.md R261 to R265): a rejection, the
acceptance of a command write, a data-register write, and reset. The block has no trap and no return from one
(R268, R269): `reject` is its only record of an error, and `clearStatus` (Flags.lean) is how the host clears it. -/

namespace Sys2Proof.Machine

/-- `reject(F)`: the write is dropped and the sticky flag F is set (00_scope.md R10). -/
def reject (f : ErrorFlag) (s : State) : State := setErrorFlag f s

/-- The opcode of ARK, the one command whose acceptance reads KV (60_exceptions.md R261). -/
def opArk : BitVec 6 := 0x13

/-- A host write of `v` to CMD, the pseudocode of 60_exceptions.md R261. -/
def acceptCommand (v : Word) (s : State) : State :=
  if s.busy then reject .busy s
  else
    let t := { s with done := false }
    if !legal v then reject .ill t
    else if opField v == opArk && !t.kv then reject .nokey t
    else { t with pending := some v }

/-- A host write to WREG, KEY or DIN: dropped with ERR_BUSY while a command is pending, otherwise `upd`
(60_exceptions.md R265). -/
def writeUnlessBusy (upd : State → State) (s : State) : State :=
  if s.busy then reject .busy s else upd s

/-- Reset: every piece of state takes its value of 10_state.md R38 and a pending command is discarded
(70_reset_and_hazards.md R290, R291). The agents' later steps are not the block's state and stay (log 10). -/
def resetBlock (s : State) : State :=
  { State.reset with inputs := s.inputs }

/-- A commit step: the command's effect `upd`, and in the same step the completion flags (60_exceptions.md R262).
The effect reads the state as it stands at this step, so every operand is a snapshot (R300). -/
def commitWith (upd : State → State) (s : State) : Outcome State Fault Refusal :=
  .next (complete (upd s))

end Sys2Proof.Machine
end

