-- ==== Sys2Proof/Machine/Serialization.lean ====
section
/-! DEFINITION. The state matrix permutation (45_serialization.md): Deserialize, Serialize and the commands LOADS
and STORES. -/

namespace Sys2Proof.Machine

/-- `Deserialize(b)[r][c] = b[4·c + r]` (45_serialization.md R240). -/
def deserialize (b : Vector Byte 16) : StateMatrix := matrixOf fun r c => b[blockIndex r c]

/-- `Serialize(S)[i] = S[i mod 4][i / 4]` (45_serialization.md R241). -/
def serialize (m : StateMatrix) : Vector Byte 16 := Vector.ofFn fun i => cell m (laneOf i) (wordIndexOf i)

/-- `S[r][c] = byte_r(reg[c])` (45_serialization.md R243). -/
def matrixOfRegs (regs : Quad Word) : StateMatrix := matrixOf fun r c => byteAt (regs.get c) r

/-- `reg[c] = word(S[0][c], S[1][c], S[2][c], S[3][c])` (45_serialization.md R244). -/
def regsOfMatrix (m : StateMatrix) : Quad Word :=
  Quad.ofFn fun c => wordOf (cell m 0 c) (cell m 1 c) (cell m 2 c) (cell m 3 c)

/-- LOADS: S[r][c] <- byte_r(DIN[c]) (45_serialization.md R243). -/
def execLoads (s : State) : Outcome State Fault Refusal :=
  commitWith (fun s => { s with sMat := matrixOfRegs s.din }) s

/-- STORES: DOUT[c] <- word(S[0][c], S[1][c], S[2][c], S[3][c]) (45_serialization.md R244). -/
def execStores (s : State) : Outcome State Fault Refusal :=
  commitWith (fun s => { s with dout := regsOfMatrix s.sMat }) s

end Sys2Proof.Machine
end

