-- ==== Sys2Proof/Machine/Galois.lean ====
section
/-! DEFINITION. Arithmetic in GF(2^8) (40_gf_arith.md R120 to R123) and its two commands XTIME and GMUL. -/

namespace Sys2Proof.Machine

/-- Multiplication by 2: shift left, truncated to a byte, and XOR 0x1B when bit 7 was set (40_gf_arith.md R121). -/
def xtime (b : Byte) : Byte := (b <<< 1) ^^^ (if b.getLsbD 7 then 0x1B else 0x00)

/-- One turn of `gmul`'s loop on (p, acc), for bit i of b (40_gf_arith.md R122). -/
def gmulTurn (b : Byte) (pa : Byte × Byte) (i : Nat) : Byte × Byte :=
  (if b.getLsbD i then pa.1 ^^^ pa.2 else pa.1, xtime pa.2)

/-- The field product: bits of b, least significant first (40_gf_arith.md R122). -/
def gmul (a b : Byte) : Byte :=
  ([0, 1, 2, 3, 4, 5, 6, 7].foldl (gmulTurn b) (0x00, a)).1

/-- XTIME: WREG <- zext_32(xtime(WREG[7:0])) (40_gf_arith.md R124). -/
def execXtime (s : State) : Outcome State Fault Refusal :=
  commitWith (fun s => { s with wreg := zext32 (xtime (wregLow s)) }) s

/-- GMUL: WREG <- zext_32(gmul(WREG[7:0], WREG[15:8])) (40_gf_arith.md R125). -/
def execGmul (s : State) : Outcome State Fault Refusal :=
  commitWith (fun s => { s with wreg := zext32 (gmul (wregLow s) (wregHigh s)) }) s

end Sys2Proof.Machine
end

