-- ==== Sys2Proof/Machine/KeyExpander.lean ====
section
/-! DEFINITION. The key expander (42_key_expander.md): RotWord, SubWord, the round-constant word, ExpandKey,
and the commands ROTW, SUBW, RCON and KEXP. -/

namespace Sys2Proof.Machine

/-- `RotWord`: the byte at position 0 moves to position 3, the others shift down (42_key_expander.md R151). -/
def rotWord (w : Word) : Word := wordOf (byteAt w 1) (byteAt w 2) (byteAt w 3) (byteAt w 0)

/-- `SubWord`: SBOX on each byte (42_key_expander.md R152). -/
def subWord (w : Word) : Word :=
  wordOf (sbox (byteAt w 0)) (sbox (byteAt w 1)) (sbox (byteAt w 2)) (sbox (byteAt w 3))

/-- `RconWord(r)`: the round constant in byte position 0, the others zero (42_key_expander.md R154). -/
def rconWord (r : Fin 10) : Word := zext32 (rcon r)

/-- `temp` of ExpandKey at word index i, from W'[i-1] (42_key_expander.md R155). The Rcon index i/4 - 1 is in 0..9
for every i in 4..43. -/
def scheduleTemp (i : Nat) (prev : Word) : Word :=
  if i % 4 = 0 then
    subWord (rotWord prev) ^^^ (if h : i / 4 - 1 < 10 then rconWord ⟨i / 4 - 1, h⟩ else 0)
  else prev

/-- The `n` schedule words from index i on, when the four words before are W'[i-4], W'[i-3], W'[i-2], W'[i-1]
(42_key_expander.md R155): W'[i] = W'[i-4] xor temp. -/
def scheduleFrom : (n i : Nat) → (w4 w3 w2 w1 : Word) → List Word
  | 0, _, _, _, _, _ => []
  | n + 1, i, w4, w3, w2, w1 =>
    (w4 ^^^ scheduleTemp i w1) :: scheduleFrom n (i + 1) w3 w2 w1 (w4 ^^^ scheduleTemp i w1)

/-- As many words as were asked for. -/
theorem scheduleFrom_length (n i : Nat) (w4 w3 w2 w1 : Word) : (scheduleFrom n i w4 w3 w2 w1).length = n := by
  induction n generalizing i w4 w3 w2 w1 with
  | zero => rfl
  | succ n ih => simp [scheduleFrom, ih]

/-- `ExpandKey(K)`: the four key words and the forty words after them (42_key_expander.md R155). -/
def expandKey (k : Quad Word) : Vector Word 44 :=
  ⟨(k.a0 :: k.a1 :: k.a2 :: k.a3 :: scheduleFrom 40 4 k.a0 k.a1 k.a2 k.a3).toArray, by
    simp [scheduleFrom_length]⟩

/-- W <- ExpandKey(KEY) and KV <- 1, as KEXP, ENC and DEC do it (42_key_expander.md R160; 44_cipher_driver.md R223, R224). -/
def loadSchedule (s : State) : State :=
  { s with wRam := expandKey s.key, kv := true }

/-- ROTW: WREG <- RotWord(WREG) (42_key_expander.md R157). -/
def execRotw (s : State) : Outcome State Fault Refusal :=
  commitWith (fun s => { s with wreg := rotWord s.wreg }) s

/-- SUBW: WREG <- SubWord(WREG) (42_key_expander.md R158). -/
def execSubw (s : State) : Outcome State Fault Refusal :=
  commitWith (fun s => { s with wreg := subWord s.wreg }) s

/-- RCON r: WREG <- WREG xor RconWord(r) (42_key_expander.md R159). An index above 9 is no command: the word is
rejected at the CMD write (30_encoding.md R95), so the refusal is for a term no word decodes to (log 8). -/
def execRcon (r : BitVec 4) (s : State) : Outcome State Fault Refusal :=
  if h : r.toNat < 10 then
    commitWith (fun s => { s with wreg := s.wreg ^^^ rconWord ⟨r.toNat, h⟩ }) s
  else .refused (.immediateOutOfRange r)

/-- KEXP: W <- ExpandKey(KEY), KV <- 1 (42_key_expander.md R160). -/
def execKexp (s : State) : Outcome State Fault Refusal :=
  commitWith loadSchedule s

end Sys2Proof.Machine
end

