-- ==== Sys2Proof/Machine/Transforms.lean ====
section
/-! DEFINITION. The state transformations and their inverses (43_state_transforms.md R180 to R189) and the seven
single-step commands on S. Each function computes all 16 cells from its input as it was (R188). -/

namespace Sys2Proof.Machine

/-- `SubBytes(S)[r][c] = SBOX[S[r][c]]` (43_state_transforms.md R181). -/
def subBytes (m : StateMatrix) : StateMatrix := matrixOf fun r c => sbox (cell m r c)

/-- `InvSubBytes(S)[r][c] = INV_SBOX[S[r][c]]` (43_state_transforms.md R182). -/
def invSubBytes (m : StateMatrix) : StateMatrix := matrixOf fun r c => invSbox (cell m r c)

/-- `ShiftRows(S)[r][c] = S[r][(r + c) mod 4]` (43_state_transforms.md R183); the sum in `Fin 4` is mod 4. -/
def shiftRows (m : StateMatrix) : StateMatrix := matrixOf fun r c => cell m r (r + c)

/-- `InvShiftRows(S)[r][c] = S[r][(c - r) mod 4]`, the modulo non-negative (43_state_transforms.md R184). -/
def invShiftRows (m : StateMatrix) : StateMatrix := matrixOf fun r c => cell m r (c - r)

/-- The column (s0, s1, s2, s3) times the MixColumns matrix, the four equations of 43_state_transforms.md R185. -/
def mixColumn (s : Quad Byte) : Quad Byte where
  a0 := gmul 2 s.a0 ^^^ gmul 3 s.a1 ^^^ s.a2 ^^^ s.a3
  a1 := s.a0 ^^^ gmul 2 s.a1 ^^^ gmul 3 s.a2 ^^^ s.a3
  a2 := s.a0 ^^^ s.a1 ^^^ gmul 2 s.a2 ^^^ gmul 3 s.a3
  a3 := gmul 3 s.a0 ^^^ s.a1 ^^^ s.a2 ^^^ gmul 2 s.a3

/-- The column times the InvMixColumns matrix, the four equations of 43_state_transforms.md R186. -/
def invMixColumn (s : Quad Byte) : Quad Byte where
  a0 := gmul 14 s.a0 ^^^ gmul 11 s.a1 ^^^ gmul 13 s.a2 ^^^ gmul 9 s.a3
  a1 := gmul 9 s.a0 ^^^ gmul 14 s.a1 ^^^ gmul 11 s.a2 ^^^ gmul 13 s.a3
  a2 := gmul 13 s.a0 ^^^ gmul 9 s.a1 ^^^ gmul 14 s.a2 ^^^ gmul 11 s.a3
  a3 := gmul 11 s.a0 ^^^ gmul 13 s.a1 ^^^ gmul 9 s.a2 ^^^ gmul 14 s.a3

/-- `MixColumns`, column by column (43_state_transforms.md R185). -/
def mixColumns (m : StateMatrix) : StateMatrix := matrixOf fun r c => (mixColumn (column m c)).get r

/-- `InvMixColumns`, column by column (43_state_transforms.md R186). -/
def invMixColumns (m : StateMatrix) : StateMatrix := matrixOf fun r c => (invMixColumn (column m c)).get r

/-- Word `W[4·rnd + c]` of round key rnd (10_state.md R31). -/
def roundKeyWord (w : Vector Word 44) (rnd : Fin 11) (c : Fin 4) : Word :=
  w[4 * rnd.val + c.val]'(by omega)

/-- `AddRoundKey(S, W, rnd)[r][c] = S[r][c] xor byte_r(W[4·rnd + c])` (43_state_transforms.md R187). -/
def addRoundKey (m : StateMatrix) (w : Vector Word 44) (rnd : Fin 11) : StateMatrix :=
  matrixOf fun r c => cell m r c ^^^ byteAt (roundKeyWord w rnd c) r

/-- A command whose effect is S <- f(S). -/
def transformState (f : StateMatrix → StateMatrix) (s : State) : Outcome State Fault Refusal :=
  commitWith (fun s => { s with sMat := f s.sMat }) s

/-- SUBB: S <- SubBytes(S) (43_state_transforms.md R190). -/
def execSubb (s : State) : Outcome State Fault Refusal := transformState subBytes s

/-- SHR: S <- ShiftRows(S) (43_state_transforms.md R191). -/
def execShr (s : State) : Outcome State Fault Refusal := transformState shiftRows s

/-- MIXC: S <- MixColumns(S) (43_state_transforms.md R192). -/
def execMixc (s : State) : Outcome State Fault Refusal := transformState mixColumns s

/-- ARK rnd: S <- AddRoundKey(S, W, rnd) (43_state_transforms.md R193). The KV check is acceptance's
(60_exceptions.md R261), not the commit's. An index above 10 is no command (30_encoding.md R95): the refusal is for a
term no word decodes to (log 8). -/
def execArk (rnd : BitVec 4) (s : State) : Outcome State Fault Refusal :=
  if h : rnd.toNat < 11 then
    commitWith (fun s => { s with sMat := addRoundKey s.sMat s.wRam ⟨rnd.toNat, h⟩ }) s
  else .refused (.immediateOutOfRange rnd)

/-- ISUBB: S <- InvSubBytes(S) (43_state_transforms.md R194). -/
def execIsubb (s : State) : Outcome State Fault Refusal := transformState invSubBytes s

/-- ISHR: S <- InvShiftRows(S) (43_state_transforms.md R195). -/
def execIshr (s : State) : Outcome State Fault Refusal := transformState invShiftRows s

/-- IMIXC: S <- InvMixColumns(S) (43_state_transforms.md R196). -/
def execImixc (s : State) : Outcome State Fault Refusal := transformState invMixColumns s

end Sys2Proof.Machine
end

