-- ==== Sys2Proof/Machine/Cipher.lean ====
section
/-! DEFINITION. The cipher and inverse-cipher drivers (44_cipher_driver.md R220 to R227) and the commands ENC and DEC.
Decryption is the plain inverse cipher with the forward schedule (R226; 90_conflicts.md C1). -/

namespace Sys2Proof.Machine

/-- A full round of the cipher (44_cipher_driver.md R220, step 4). -/
def encRound (w : Vector Word 44) (m : StateMatrix) (rnd : Fin 11) : StateMatrix :=
  addRoundKey (mixColumns (shiftRows (subBytes m))) w rnd

/-- Steps 3 to 5 of `Cipher`: round key 0, rounds 1 to 9, the final round without MixColumns (44_cipher_driver.md R220, R222). -/
def encRounds (w : Vector Word 44) (m : StateMatrix) : StateMatrix :=
  let m := ([1, 2, 3, 4, 5, 6, 7, 8, 9] : List (Fin 11)).foldl (encRound w) (addRoundKey m w 0)
  addRoundKey (shiftRows (subBytes m)) w 10

/-- An intermediate round of the inverse cipher (44_cipher_driver.md R221, step 4): the round key before InvMixColumns. -/
def decRound (w : Vector Word 44) (m : StateMatrix) (rnd : Fin 11) : StateMatrix :=
  invMixColumns (addRoundKey (invSubBytes (invShiftRows m)) w rnd)

/-- Steps 3 to 5 of `InvCipher`: round key 10, rounds 9 down to 1, the last group without InvMixColumns (44_cipher_driver.md R221, R222). -/
def decRounds (w : Vector Word 44) (m : StateMatrix) : StateMatrix :=
  let m := ([9, 8, 7, 6, 5, 4, 3, 2, 1] : List (Fin 11)).foldl (decRound w) (addRoundKey m w 10)
  addRoundKey (invSubBytes (invShiftRows m)) w 0

/-- `Cipher(b, K)` (44_cipher_driver.md R220). -/
def cipher (b : Vector Byte 16) (k : Quad Word) : Vector Byte 16 :=
  serialize (encRounds (expandKey k) (deserialize b))

/-- `InvCipher(b, K)` (44_cipher_driver.md R221). -/
def invCipher (b : Vector Byte 16) (k : Quad Word) : Vector Byte 16 :=
  serialize (decRounds (expandKey k) (deserialize b))

/-- S and DOUT of a cipher run: the rounds on the block in DIN with the schedule in W, then DOUT from the final S
(44_cipher_driver.md R223, R224). -/
def runRounds (rounds : Vector Word 44 → StateMatrix → StateMatrix) (s : State) : State :=
  let m := rounds s.wRam (deserialize (blockOfRegs s.din))
  { s with sMat := m, dout := regsOfMatrix m }

/-- ENC: expand KEY into W, KV <- 1, encrypt DIN into S and DOUT (44_cipher_driver.md R223). -/
def execEnc (s : State) : Outcome State Fault Refusal :=
  commitWith (fun s => runRounds encRounds (loadSchedule s)) s

/-- DEC: expand KEY into W, KV <- 1, decrypt DIN into S and DOUT (44_cipher_driver.md R224). -/
def execDec (s : State) : Outcome State Fault Refusal :=
  commitWith (fun s => runRounds decRounds (loadSchedule s)) s

end Sys2Proof.Machine
end

