-- ==== Sys2Proof/Machine/System.lean ====
section
/-! DEFINITION. The system commands NOP and ZERO (46_system.md). -/

namespace Sys2Proof.Machine

/-- NOP: no effect beside the completion flags (46_system.md R250). -/
def execNop (s : State) : Outcome State Fault Refusal := commitWith (fun s => s) s

/-- The erasure of ZERO: KEY, DIN, DOUT, W, S, WREG and KV; the error flags keep their values (46_system.md R251). -/
def eraseData (s : State) : State :=
  { s with
    key := Quad.all 0x00000000
    din := Quad.all 0x00000000
    dout := Quad.all 0x00000000
    wRam := Vector.replicate 44 0x00000000
    sMat := Quad.all (Quad.all 0x00)
    wreg := 0x00000000
    kv := false }

/-- ZERO: erase all key material and data (46_system.md R251). -/
def execZero (s : State) : Outcome State Fault Refusal := commitWith eraseData s

end Sys2Proof.Machine
end

