-- ==== Sys2Proof/Machine/Dispatch.lean ====
section
/-! DEFINITION. Which meaning a command has: one arm per constructor of `Instr`. `exec i s` is the commit of command i
(60_exceptions.md R262). -/

namespace Sys2Proof.Machine

def exec (i : Instr) (s : State) : Host.Outcome State Fault Refusal :=
  match i with
  | .nop => Sys2Proof.Machine.execNop s
  | .zero => Sys2Proof.Machine.execZero s
  | .kexp => Sys2Proof.Machine.execKexp s
  | .enc => Sys2Proof.Machine.execEnc s
  | .dec => Sys2Proof.Machine.execDec s
  | .loads => Sys2Proof.Machine.execLoads s
  | .stores => Sys2Proof.Machine.execStores s
  | .subb => Sys2Proof.Machine.execSubb s
  | .shr => Sys2Proof.Machine.execShr s
  | .mixc => Sys2Proof.Machine.execMixc s
  | .ark rnd => Sys2Proof.Machine.execArk rnd s
  | .isubb => Sys2Proof.Machine.execIsubb s
  | .ishr => Sys2Proof.Machine.execIshr s
  | .imixc => Sys2Proof.Machine.execImixc s
  | .rotw => Sys2Proof.Machine.execRotw s
  | .subw => Sys2Proof.Machine.execSubw s
  | .rcon r => Sys2Proof.Machine.execRcon r s
  | .xtime => Sys2Proof.Machine.execXtime s
  | .gmul => Sys2Proof.Machine.execGmul s

end Sys2Proof.Machine
end

