-- ==== Sys2Proof/Machine/HostBus.lean ====
section
/-! DEFINITION. The host's register window (20_memory.md R61 to R73): which register an offset names, what a read
returns, what a write does, and the two transactions with their BusError (60_exceptions.md R264, R267). -/

namespace Sys2Proof.Machine

/-- The registers of the window (20_memory.md R67). -/
inductive Reg where
  /-- 0x00, write-only. -/
  | cmd
  /-- 0x04, read and write-1-to-clear. -/
  | status
  /-- 0x08, read and write. -/
  | wreg
  /-- 0x0C: reads 0, writes ignored (20_memory.md R70). -/
  | reserved
  /-- 0x10 .. 0x1C, read and write. -/
  | key (j : Fin 4)
  /-- 0x20 .. 0x2C, read and write. -/
  | din (j : Fin 4)
  /-- 0x30 .. 0x3C, read-only. -/
  | dout (j : Fin 4)
  deriving DecidableEq, Repr

/-- The size of the window in bytes (20_memory.md R61). -/
def windowBytes : Nat := 64

/-- The host address of an offset (20_memory.md R62). -/
def hostAddress (off : Nat) : Nat := Config.aesBase + off

/-- The word offset the block decodes: address bits 5:2 (20_memory.md R68). AES_BASE is a multiple of 64, so an
address and its offset from AES_BASE have the same bits 5:2. -/
def wordOffset (addr : Nat) : Fin 16 := ⟨addr / 4 % 16, by omega⟩

/-- The register at a word offset (20_memory.md R67): four rows of four, 0x00 CMD, STATUS, WREG, reserved, then KEY at
0x10, DIN at 0x20, DOUT at 0x30. -/
def regAt (k : Fin 16) : Reg :=
  let row : Fin 4 := ⟨k.val / 4, by omega⟩
  let j : Fin 4 := ⟨k.val % 4, by omega⟩
  match row with
  | 0 => match j with
    | 0 => .cmd
    | 1 => .status
    | 2 => .wreg
    | 3 => .reserved
  | 1 => .key j
  | 2 => .din j
  | 3 => .dout j

/-- `off(reg)`, the offset of a register (20_memory.md R67; 30_encoding.md R100). -/
def Reg.offset : Reg → Nat
  | .cmd => 0x00
  | .status => 0x04
  | .wreg => 0x08
  | .reserved => 0x0C
  | .key j => 0x10 + 4 * j.val
  | .din j => 0x20 + 4 * j.val
  | .dout j => 0x30 + 4 * j.val

/-- What a read returns (10_state.md R23, R24, R34 to R37; 20_memory.md R70). -/
def readReg (r : Reg) (s : State) : Word :=
  match r with
  | .cmd => 0x00000000
  | .status => statusWord s
  | .wreg => s.wreg
  | .reserved => 0x00000000
  | .key j => s.key.get j
  | .din j => s.din.get j
  | .dout j => s.dout.get j

/-- What a write does (20_memory.md R72; 60_exceptions.md R261, R265, R266). An accepted KEY write clears KV, whatever
value is written (10_state.md R35). -/
def writeReg (r : Reg) (v : Word) (s : State) : State :=
  match r with
  | .cmd => acceptCommand v s
  | .status => clearStatus v s
  | .wreg => writeUnlessBusy (fun s => { s with wreg := v }) s
  | .reserved => s
  | .key j => writeUnlessBusy (fun s => { s with key := s.key.set j v, kv := false }) s
  | .din j => writeUnlessBusy (fun s => { s with din := s.din.set j v }) s
  | .dout _ => s

/-- A host transaction on the window: outside it the block is not addressed (20_memory.md R68; log 4), a wrong size or
alignment is BusError before anything else (60_exceptions.md R264, R267), otherwise `eff` of the register. -/
def hostTransaction (off size : Nat) (eff : Reg → State → State) (s : State) : Outcome State Fault Refusal :=
  if off ≥ windowBytes then .refused (.outsideWindow (hostAddress off))
  else if size ≠ 4 ∨ off % 4 ≠ 0 then .fault (.busError (hostAddress off))
  else .next (eff (regAt (wordOffset off)) s)

/-- `MemRead(AES_BASE + off, size)`: the word goes to the host; a read has no side effect (20_memory.md R62, R72). -/
def hostRead (off size : Nat) (s : State) : Outcome State Fault Refusal :=
  hostTransaction off size (fun r s => { s with rdata := some (readReg r s) }) s

/-- `MemWrite(AES_BASE + off, size, value)` (20_memory.md R62). -/
def hostWrite (off size : Nat) (value : Word) (s : State) : Outcome State Fault Refusal :=
  hostTransaction off size (fun r s => writeReg r value s) s

end Sys2Proof.Machine
end

