-- ==== Sys2Proof/Machine/Engine.lean ====
section
/-! DEFINITION. The agents' steps (00_scope.md R11): which agent moves next, the Engine's commit of the pending
command (60_exceptions.md R262), and where a command word stands so that the next step runs it. -/

namespace Sys2Proof.Machine

/-- The next step: the first of the scheduled ones, and the Engine's turn when none is left, so that a pending
command always commits (70_reset_and_hazards.md R301; log 1). -/
def nextEvent (s : State) : Event := s.inputs.headD .engine

/-- The state in which the next step is taken: that step is no longer scheduled, and nothing is returned to the host yet. -/
def takeInput (s : State) : State := { s with inputs := s.inputs.tail, rdata := none }

/-- Commit of the pending word `v`: the command it decodes to (60_exceptions.md R262). A word that is no command is never
pending (R261); it is refused by name (log 8). -/
def commitPending (v : Word) (s : State) : Outcome State Fault Refusal :=
  match decode v with
  | .ok i => exec i s
  | .error _ => .refused (.illegalPending v)

/-- The Engine's turn: a commit when PENDING is not none, otherwise nothing (60_exceptions.md R262, R278; log 7). -/
def engineTurn (s : State) : Outcome State Fault Refusal :=
  match s.pending with
  | some v => commitPending v s
  | none => .next s

/-- One atomic step of one agent (20_memory.md R75). -/
def takeEvent (e : Event) (s : State) : Outcome State Fault Refusal :=
  match e with
  | .memRead off size => hostRead off size s
  | .memWrite off size value => hostWrite off size value s
  | .engine => engineTurn s
  | .reset => .next (resetBlock s)

/-- The word placed where the Engine takes its next command from: PENDING, with the Engine's turn next (log 15). The one
word is the whole command (30_encoding.md R98); the bits above `nbits` are 0. -/
def placeCommand (s : State) (nbits w : Nat) : State :=
  { s with pending := some (BitVec.ofNat 32 (w % 2 ^ nbits)), inputs := .engine :: s.inputs }

end Sys2Proof.Machine
end

