-- ==== Sys2Proof/Machine/Step.lean ====
section
/-! DEFINITION. One step of the machine: the next agent's step (20_memory.md R75), and the placing of a command word for
it to run. The definitions it calls are in Machine/Engine.lean. -/

namespace Sys2Proof.Machine

/-- One step: an atomic step of the agent whose turn it is. -/
def step (s : State) : Host.Outcome State Fault Refusal :=
  takeEvent (nextEvent s) (takeInput s)

/-- `s` with the command word `w` where the very next step takes its command from (log 15). -/
def State.withFetchWord (s : State) (nbits w : Nat) : State := placeCommand s nbits w

end Sys2Proof.Machine
end

