-- ==== Sys2Proof/Safety.lean ====
section
/-! DEFINITION. What a good state is and what a safe end of a step is, in the terms the statements use. -/

namespace Sys2Proof.Machine

/-- The relations between fields that every step keeps. -/
structure State.Good (s : State) : Prop where
  /-- PENDING holds only an accepted, so legal, word (60_exceptions.md R261). -/
  pendingLegal : ∀ v, s.pending = some v → legal v = true
  /-- A pending ARK was accepted with KV = 1, and KV cannot change while it is pending (43_state_transforms.md R193). -/
  pendingArkHasKey : ∀ v, s.pending = some v → opField v = opArk → s.kv = true
  /-- While BUSY = 1, DONE is 0 (10_state.md R26). -/
  doneClearWhileBusy : s.busy = true → s.done = false
  /-- When KV = 1, W[0..43] = ExpandKey(KEY[0..3]) (10_state.md R28). -/
  scheduleOfKey : s.kv = true → s.wRam = expandKey s.key

/-- A quiescent state: PENDING = none (60_exceptions.md R278). -/
def State.quiescent (s : State) : Prop := s.pending = none

/-- The ends of a step that the interface allows: a next state, BusError, or a transaction outside the window. -/
def endsAsTheSpecAllows : Outcome State Fault Refusal → Prop
  | .next _ => True
  | .fault (.busError _) => True
  | .refused (.outsideWindow _) => True
  | .refused _ => False

end Sys2Proof.Machine
end

