-- ==== Sys2Proof/Certificates/Slice0/Obligations.lean ====
section
/-! DEFINITION. The statements for the provers: one `def Obligations.<Name> : Prop` each, after the few definitions they
share. Each docstring names the rules of spec/ it formalises. -/

open Sys2Proof Sys2Proof.Machine

namespace Sys2Proof.Claims

/-- The CMD write of a command, then the Engine's turn: one command run to its commit (30_encoding.md R100, `RUN`, with the
commit at once after the acceptance). -/
def runCommand (i : Instr) : List Event := [.memWrite 0x00 4 (encode i), .engine]

/-- A host program of commands, each run to its commit. -/
def runCommands (is : List Instr) : List Event := is.flatMap runCommand

/-- The single steps of one full round of the cipher (44_cipher_driver.md R220 step 4, R227). -/
def roundCommands (rnd : BitVec 4) : List Instr := [.subb, .shr, .mixc, .ark rnd]

/-- An encryption made of single-step commands (44_cipher_driver.md R220, R227). -/
def encSteps : List Instr :=
  [.kexp, .loads, .ark 0] ++ ([1, 2, 3, 4, 5, 6, 7, 8, 9] : List (BitVec 4)).flatMap roundCommands ++
    [.subb, .shr, .ark 10, .stores]

/-- The single steps of one intermediate round of the inverse cipher (70_reset_and_hazards.md R302). -/
def invRoundCommands (rnd : BitVec 4) : List Instr := [.ishr, .isubb, .ark rnd, .imixc]

/-- A decryption made of single-step commands (44_cipher_driver.md R221, R227; 70_reset_and_hazards.md R302). -/
def decSteps : List Instr :=
  [.kexp, .loads, .ark 10] ++ ([9, 8, 7, 6, 5, 4, 3, 2, 1] : List (BitVec 4)).flatMap invRoundCommands ++
    [.ishr, .isubb, .ark 0, .stores]

/-- The opcodes of the map (30_encoding.md R94), as numbers. -/
def listedOpcodes : List Nat :=
  [0x00, 0x01, 0x02, 0x03, 0x04, 0x08, 0x09, 0x10, 0x11, 0x12, 0x13, 0x18, 0x19, 0x1A, 0x20, 0x21, 0x22, 0x28, 0x29]

/-- What every command rule says in one shape: its word (30_encoding.md R94); the rejections at the CMD write, ERR_BUSY
while a command is pending, ERR_ILL when the immediate is above `immMax` or a reserved bit is set (R95, R261); its acceptance
(ARK needs KV); and its commit, which applies `effect`, and besides it only the completion flags (R262), for every state. -/
def CommandRule (i : Instr) (word : Word) (immMax : Nat) (effect : State → State) : Prop :=
  decode word = .ok i ∧
  encode i = word ∧
  (∀ (s : State) (v : Word), opField v = i.opcode → s.pending ≠ none →
    hostWrite 0x00 4 v s = .next { s with errBusy := true }) ∧
  (∀ (s : State) (v : Word), opField v = i.opcode → s.pending = none →
    ((immField v).toNat > immMax ∨ rsv0Field v ≠ 0 ∨ rsv1Field v ≠ 0) →
    hostWrite 0x00 4 v s = .next { s with done := false, errIll := true }) ∧
  (∀ s : State, s.pending = none → (i.opcode = 0x13 → s.kv = true) →
    hostWrite 0x00 4 word s = .next { s with done := false, pending := some word }) ∧
  (∀ s : State, exec i s = .next { effect s with pending := none, done := true })

/-- The parts of the block a command may read or write (10_state.md R21). -/
inductive Part where
  | key | din | dout | wreg | s | w | kv
  deriving DecidableEq, Repr

/-- Two states hold the same at a part. -/
def sameAt (p : Part) (s t : State) : Prop :=
  match p with
  | .key => s.key = t.key
  | .din => s.din = t.din
  | .dout => s.dout = t.dout
  | .wreg => s.wreg = t.wreg
  | .s => s.sMat = t.sMat
  | .w => s.wRam = t.wRam
  | .kv => s.kv = t.kv

/-- The column "reads" of 10_state.md R21, of the commit (STATUS.KV of ARK is read at its acceptance). -/
def readsOf : Instr → List Part
  | .nop | .zero => []
  | .kexp => [.key]
  | .enc | .dec => [.key, .din]
  | .loads => [.din]
  | .stores => [.s]
  | .subb | .shr | .mixc | .isubb | .ishr | .imixc => [.s]
  | .ark _ => [.s, .w]
  | .rotw | .subw | .rcon _ | .xtime | .gmul => [.wreg]

/-- The column "writes" of 10_state.md R21. -/
def writesOf : Instr → List Part
  | .nop => []
  | .zero => [.key, .w, .s, .wreg, .din, .dout, .kv]
  | .kexp => [.w, .kv]
  | .enc | .dec => [.w, .kv, .s, .dout]
  | .loads => [.s]
  | .stores => [.dout]
  | .subb | .shr | .mixc | .isubb | .ishr | .imixc => [.s]
  | .ark _ => [.s]
  | .rotw | .subw | .rcon _ | .xtime | .gmul => [.wreg]

/-- The part of R21 that a register of the window shows to the host; CMD and the reserved offset read 0 always, and STATUS
changes with every command. -/
def partRead : Reg → Option Part
  | .cmd | .status | .reserved => none
  | .wreg => some .wreg
  | .key _ => some .key
  | .din _ => some .din
  | .dout _ => some .dout

/-- The product of two polynomials over GF(2), as numbers: bit i of `b` adds `a` shifted by i (40_gf_arith.md R120). -/
def polyProduct (a b : Nat) : Nat :=
  [0, 1, 2, 3, 4, 5, 6, 7].foldl (fun p i => if b.testBit i then p ^^^ (a <<< i) else p) 0

/-- The remainder modulo x^8+x^4+x^3+x+1, whose number is 0x11B, of a polynomial of degree at most 14 (40_gf_arith.md R120). -/
def polyRemainder (p : Nat) : Nat :=
  [6, 5, 4, 3, 2, 1, 0].foldl (fun q k => if q.testBit (k + 8) then q ^^^ (0x11B <<< k) else q) p

/-- `affine(b)` of 41_sbox.md R141, with `rotl8` as the left rotation of a byte. -/
def affine (b : Byte) : Byte :=
  b ^^^ b.rotateLeft 1 ^^^ b.rotateLeft 2 ^^^ b.rotateLeft 3 ^^^ b.rotateLeft 4 ^^^ 0x63

/-- The state written `S0f` in spec/: S[r][c] = 4c + r (43_state_transforms.md, opening). -/
def s0f : StateMatrix := matrixOf fun r c => BitVec.ofNat 8 (4 * c.val + r.val)

/-- A state from its serialized bytes b0 .. b15, b[4c+r] = S[r][c] (43_state_transforms.md, opening). -/
def stateOfBytes (b : Vector Byte 16) : StateMatrix := matrixOf fun r c => b[4 * c.val + r.val]'(by omega)

/-- The three error flags of a state, in the order of their bits. -/
def errorFlags (s : State) : List Bool := [s.errBusy, s.errIll, s.errNokey]

/-- How many error flags are set in `t` and were not in `s`. -/
def newlySet (s t : State) : Nat :=
  ((errorFlags s).zip (errorFlags t)).countP fun p => !p.1 && p.2

end Sys2Proof.Claims

open Sys2Proof.Claims

/-! ### Encoding -/

/-- 30_encoding.md R94: the word of each row of the opcode map decodes to that row's command, and every word whose OP is not
listed decodes to no command. -/
def Obligations.OpcodeMapWordsDecode : Prop :=
  decode 0x00000000 = .ok .nop ∧ decode 0x00000001 = .ok .zero ∧ decode 0x00000002 = .ok .kexp ∧
  decode 0x00000003 = .ok .enc ∧ decode 0x00000004 = .ok .dec ∧ decode 0x00000008 = .ok .loads ∧
  decode 0x00000009 = .ok .stores ∧ decode 0x00000010 = .ok .subb ∧ decode 0x00000011 = .ok .shr ∧
  decode 0x00000012 = .ok .mixc ∧ decode 0x00000018 = .ok .isubb ∧ decode 0x00000019 = .ok .ishr ∧
  decode 0x0000001A = .ok .imixc ∧ decode 0x00000020 = .ok .rotw ∧ decode 0x00000021 = .ok .subw ∧
  decode 0x00000028 = .ok .xtime ∧ decode 0x00000029 = .ok .gmul ∧
  (∀ rnd : BitVec 4, rnd.toNat ≤ 10 → decode (0x00000013 + rnd.setWidth 32 * 0x100) = .ok (.ark rnd)) ∧
  (∀ r : BitVec 4, r.toNat ≤ 9 → decode (0x00000022 + r.setWidth 32 * 0x100) = .ok (.rcon r)) ∧
  (∀ v : Word, v.toNat % 64 ∉ listedOpcodes → ∃ e, decode v = .error e)

/-- 30_encoding.md R94, "As bit patterns", and spec/opcode_table.json: the words the decoder takes are exactly those that match a
row's mask, pattern and range condition, and no two rows match one word. -/
def Obligations.LegalWordsAreTheOpcodeTableRows : Prop :=
  (∀ v : Word, (decode v).toOption.isSome = true ↔ ∃ row ∈ opcodeRows, row.matchesWord v = true) ∧
  opcodeRows.Pairwise fun p q => ∀ v : Word, ¬(p.matchesWord v = true ∧ q.matchesWord v = true)

/-- 30_encoding.md R95: `legal(v)` holds exactly when the five conditions hold, written on the number v; and exactly the legal
words decode to a command. -/
def Obligations.LegalExactlyWhenTheFiveConditionsHold : Prop :=
  ∀ v : Word,
    (legal v = true ↔
      v.toNat / 2 ^ 12 = 0 ∧ v.toNat / 2 ^ 6 % 4 = 0 ∧ v.toNat % 64 ∈ listedOpcodes ∧
      (v.toNat % 64 = 0x13 → v.toNat / 2 ^ 8 % 16 ≤ 10) ∧
      (v.toNat % 64 = 0x22 → v.toNat / 2 ^ 8 % 16 ≤ 9) ∧
      (v.toNat % 64 ≠ 0x13 → v.toNat % 64 ≠ 0x22 → v.toNat / 2 ^ 8 % 16 = 0)) ∧
    (legal v = true ↔ ∃ i, decode v = .ok i)

/-- 30_encoding.md R96 and R97: an illegal word written to CMD while BUSY = 0 sets ERR_ILL and clears DONE and does nothing else; while
BUSY = 1 it sets ERR_BUSY instead. The illegal words include those with an unassigned OP, with a reserved bit set, ARK with rnd
above 10, RCON with r above 9, and any other opcode with a non-zero IMM. -/
def Obligations.IllegalWordsAreRejected : Prop :=
  (∀ (s : State) (v : Word), legal v = false → s.pending = none →
    hostWrite 0x00 4 v s = .next { s with done := false, errIll := true }) ∧
  (∀ (s : State) (v : Word), legal v = false → s.pending ≠ none →
    hostWrite 0x00 4 v s = .next { s with errBusy := true }) ∧
  (∀ v : Word, (opField v).toNat ∉ listedOpcodes → legal v = false) ∧
  (∀ v : Word, rsv0Field v ≠ 0 → legal v = false) ∧
  (∀ v : Word, rsv1Field v ≠ 0 → legal v = false) ∧
  (∀ v : Word, opField v = 0x13 → (immField v).toNat > 10 → legal v = false) ∧
  (∀ v : Word, opField v = 0x22 → (immField v).toNat > 9 → legal v = false) ∧
  (∀ v : Word, opField v ≠ 0x13 → opField v ≠ 0x22 → immField v ≠ 0 → legal v = false)

/-- 30_encoding.md R90 to R95: decoding and encoding agree in both directions, for every word and every command: a word decodes to
a command exactly when that command is well formed and the word is its encoding. -/
def Obligations.DecodeAndEncodeAgree : Prop :=
  ∀ (v : Word) (i : Instr), decode v = .ok i ↔ i.wellFormed = true ∧ encode i = v

/-! ### The step -/

/-- 60_exceptions.md R262: when the Engine's turn comes and the pending word decodes to a command, the step is that command's
meaning, in the state from which the step is no longer scheduled (log 1) and in which nothing is returned to the host (log 2). A word
placed for the next step (log 15) is run by it. -/
def Obligations.StepRunsThePendingCommand : Prop :=
  (∀ (s : State) (v : Word) (i : Instr), s.pending = some v → decode v = .ok i → nextEvent s = .engine →
    step s = exec i { s with inputs := s.inputs.tail, rdata := none }) ∧
  (∀ (s : State) (v : Word) (i : Instr), decode v = .ok i →
    step (s.withFetchWord 32 v.toNat) = exec i { s with pending := some v, rdata := none })

/-- 20_memory.md R75, 60_exceptions.md R278: a step is the scheduled agent's atomic step; the Engine moves when none is
scheduled; and the Engine's turn on a quiescent block changes nothing of it (the schedule and the read data are the model's own,
log 1, log 2). -/
def Obligations.StepIsOneAgentsStep : Prop :=
  (∀ (s : State) (off size : Nat) (rest : List Event), s.inputs = .memRead off size :: rest →
    step s = hostRead off size { s with inputs := rest, rdata := none }) ∧
  (∀ (s : State) (off size : Nat) (v : Word) (rest : List Event), s.inputs = .memWrite off size v :: rest →
    step s = hostWrite off size v { s with inputs := rest, rdata := none }) ∧
  (∀ s : State, s.pending = none → nextEvent s = .engine →
    step s = .next { s with inputs := s.inputs.tail, rdata := none }) ∧
  (∀ s : State, s.inputs = [] → nextEvent s = .engine)

/-- 60_exceptions.md R261, R262: from an idle block, the CMD write of a well-formed command (ARK with KV = 1) and the commit after it
are two steps that together are that command's meaning, whatever steps follow. -/
def Obligations.CommandWriteThenCommitRunsTheCommand : Prop :=
  ∀ (s : State) (i : Instr) (rest : List Event),
    i.wellFormed = true → s.pending = none → (i.opcode = 0x13 → s.kv = true) →
    Host.Core.run Sys2Proof.core 2 { s with inputs := runCommand i ++ rest } =
      exec i { s with done := false, pending := some (encode i), inputs := rest, rdata := none }

/-! ### Reset -/

/-- 10_state.md R38: the state after reset, register by register. -/
def Obligations.ResetValues : Prop :=
  State.reset.pending = none ∧ statusWord State.reset = 0x00000000 ∧
  State.reset.done = false ∧ State.reset.kv = false ∧
  State.reset.errBusy = false ∧ State.reset.errIll = false ∧ State.reset.errNokey = false ∧
  State.reset.wreg = 0x00000000 ∧
  (∀ j : Fin 4, State.reset.key.get j = 0x00000000) ∧
  (∀ j : Fin 4, State.reset.din.get j = 0x00000000) ∧
  (∀ j : Fin 4, State.reset.dout.get j = 0x00000000) ∧
  (∀ r c : Fin 4, cell State.reset.sMat r c = 0x00) ∧
  (∀ i : Fin 44, State.reset.wRam[i] = 0x00000000)

/-- 70_reset_and_hazards.md R290, R291: a reset event, from any state, a command pending or not, leaves every piece of state at its
reset value; only the agents' later steps stay (the model's choice, log 10). -/
def Obligations.ResetEventResetsEverything : Prop :=
  ∀ (s : State) (rest : List Event), s.inputs = .reset :: rest →
    step s = .next { State.reset with inputs := rest }

/-! ### The register window -/

/-- 20_memory.md R67, R70, R72 and 10_state.md R23, R24, R34 to R37: what a read at each of the 16 offsets returns; it changes
nothing of the block. -/
def Obligations.ReadsReturnTheRegisters : Prop :=
  ∀ s : State,
    hostRead 0x00 4 s = .next { s with rdata := some 0x00000000 } ∧
    hostRead 0x04 4 s = .next { s with rdata := some (statusWord s) } ∧
    hostRead 0x08 4 s = .next { s with rdata := some s.wreg } ∧
    hostRead 0x0C 4 s = .next { s with rdata := some 0x00000000 } ∧
    (∀ j : Fin 4, hostRead (0x10 + 4 * j.val) 4 s = .next { s with rdata := some (s.key.get j) }) ∧
    (∀ j : Fin 4, hostRead (0x20 + 4 * j.val) 4 s = .next { s with rdata := some (s.din.get j) }) ∧
    (∀ j : Fin 4, hostRead (0x30 + 4 * j.val) 4 s = .next { s with rdata := some (s.dout.get j) })

/-- 10_state.md R24, R25: the bits of STATUS as the host reads them; BUSY is 1 exactly when PENDING is not none; bits 31:6 read 0. -/
def Obligations.StatusWordLayout : Prop :=
  ∀ s : State,
    ((statusWord s).getLsbD 0 = true ↔ s.pending ≠ none) ∧
    (statusWord s).getLsbD 1 = s.done ∧ (statusWord s).getLsbD 2 = s.kv ∧
    (statusWord s).getLsbD 3 = s.errBusy ∧ (statusWord s).getLsbD 4 = s.errIll ∧
    (statusWord s).getLsbD 5 = s.errNokey ∧ (∀ k : Nat, k ≥ 6 → (statusWord s).getLsbD k = false)

/-- 20_memory.md R69, 60_exceptions.md R264: a transaction in the window with a size other than 4, or with an address that is no
multiple of 4, is answered with BusError(addr), in every state; any other transaction in the window completes. -/
def Obligations.BusErrorExactlyOnWrongSizeOrAlignment : Prop :=
  ∀ (s : State) (off size : Nat) (v : Word), off < 64 →
    ((size ≠ 4 ∨ (Config.aesBase + off) % 4 ≠ 0) →
      hostRead off size s = .fault (.busError (Config.aesBase + off)) ∧
      hostWrite off size v s = .fault (.busError (Config.aesBase + off))) ∧
    (size = 4 → (Config.aesBase + off) % 4 = 0 →
      (∃ t, hostRead off size s = .next t) ∧ ∃ t, hostWrite off size v s = .next t)

/-- 20_memory.md R68: AES_BASE is a multiple of 64, and the word offset is address bits 5:2, the same for an address and for its
offset from AES_BASE, which the model decodes (log 3). -/
def Obligations.WordOffsetIsAddressBits5To2 : Prop :=
  Config.aesBase % 64 = 0 ∧
  ∀ off : Nat, wordOffset (hostAddress off) = wordOffset off ∧
    (wordOffset (hostAddress off)).val = (hostAddress off >>> 2) &&& 0xF

/-- 60_exceptions.md R265: host writes to WREG, KEY and DIN, dropped with ERR_BUSY while a command is pending and taken otherwise, a KEY
write clearing KV; writes to DOUT and to the reserved offset never do anything; every read of the window is answered, and changes
nothing of the block (the returned word stands in the model's own field, log 2). -/
def Obligations.DataRegisterWrites : Prop :=
  (∀ (s : State) (v : Word) (off : Nat), s.pending ≠ none →
    (off = 0x08 ∨ (∃ j : Fin 4, off = 0x10 + 4 * j.val) ∨ ∃ j : Fin 4, off = 0x20 + 4 * j.val) →
    hostWrite off 4 v s = .next { s with errBusy := true }) ∧
  (∀ (s : State) (v : Word), s.pending = none → hostWrite 0x08 4 v s = .next { s with wreg := v }) ∧
  (∀ (s : State) (v : Word) (j : Fin 4), s.pending = none →
    hostWrite (0x10 + 4 * j.val) 4 v s = .next { s with key := s.key.set j v, kv := false }) ∧
  (∀ (s : State) (v : Word) (j : Fin 4), s.pending = none →
    hostWrite (0x20 + 4 * j.val) 4 v s = .next { s with din := s.din.set j v }) ∧
  (∀ (s : State) (v : Word) (j : Fin 4), hostWrite (0x30 + 4 * j.val) 4 v s = .next s) ∧
  (∀ (s : State) (v : Word), hostWrite 0x0C 4 v s = .next s) ∧
  (∀ (s : State) (k : Fin 16), ∃ w : Word, hostRead (4 * k.val) 4 s = .next { s with rdata := some w }) ∧
  (∀ (q : Quad Word) (j k : Fin 4) (v : Word), (q.set j v).get k = if k = j then v else q.get k)

/-- 60_exceptions.md R266: a STATUS write computes `STATUS and not (v and 0x3A)`, whether BUSY is 0 or 1, and changes nothing else of
the block; a write of 0 changes nothing. -/
def Obligations.StatusWriteClearsOnes : Prop :=
  (∀ (s : State) (v : Word), ∃ t, hostWrite 0x04 4 v s = .next t ∧
    statusWord t = statusWord s &&& ~~~(v &&& 0x0000003A) ∧
    t = { s with done := t.done, errBusy := t.errBusy, errIll := t.errIll, errNokey := t.errNokey }) ∧
  (∀ s : State, hostWrite 0x04 4 0 s = .next s) ∧
  (∀ s : State, s.Good → s.pending ≠ none → hostWrite 0x04 4 0x00000002 s = .next s)

/-- 60_exceptions.md R261: the four outcomes of a CMD write, and the whole next state of each. -/
def Obligations.CommandAcceptance : Prop :=
  ∀ (s : State) (v : Word),
    (s.pending ≠ none → hostWrite 0x00 4 v s = .next { s with errBusy := true }) ∧
    (s.pending = none → legal v = false →
      hostWrite 0x00 4 v s = .next { s with done := false, errIll := true }) ∧
    (s.pending = none → legal v = true → opField v = 0x13 → s.kv = false →
      hostWrite 0x00 4 v s = .next { s with done := false, errNokey := true }) ∧
    (s.pending = none → legal v = true → (opField v = 0x13 → s.kv = true) →
      hostWrite 0x00 4 v s = .next { s with done := false, pending := some v })

/-- 60_exceptions.md R267: a single transaction never sets two flags, and it sets one only where the priority order gives it. -/
def Obligations.OneTransactionSetsAtMostOneFlag : Prop :=
  ∀ (s t : State) (off size : Nat) (v : Word), hostWrite off size v s = .next t →
    newlySet s t ≤ 1 ∧ (s.pending ≠ none → t.errIll = true → s.errIll = true) ∧
    (s.pending ≠ none → t.errNokey = true → s.errNokey = true) ∧
    (s.pending = none → t.errBusy = true → s.errBusy = true)

/-! ### The whole machine -/

/-- 10_state.md R29, 60_exceptions.md R263: which steps set each error flag, that no other step sets it, that a set flag goes to 0 only by a
STATUS write of 1 to its bit or by reset, and that no error flag changes what a later CMD write starts. -/
def Obligations.ErrorFlagsAreSticky : Prop :=
  (∀ (s t : State) (off : Nat) (v : Word), step s = .next t → nextEvent s = .memWrite off 4 v →
    (s.pending ≠ none → (off = 0x00 ∨ off = 0x08 ∨ 0x10 ≤ off ∧ off ≤ 0x2C) → t.errBusy = true) ∧
    (s.pending = none → off = 0x00 → legal v = false → t.errIll = true) ∧
    (s.pending = none → off = 0x00 → legal v = true → opField v = 0x13 → s.kv = false → t.errNokey = true)) ∧
  (∀ (s t t' : State) (v : Word) (a b c : Bool), hostWrite 0x00 4 v s = .next t →
    hostWrite 0x00 4 v { s with errBusy := a, errIll := b, errNokey := c } = .next t' → t'.pending = t.pending) ∧
  ∀ s t : State, step s = .next t →
    (s.errBusy = true → t.errBusy = false →
      nextEvent s = .reset ∨ ∃ v : Word, nextEvent s = .memWrite 0x04 4 v ∧ v.getLsbD 3 = true) ∧
    (s.errIll = true → t.errIll = false →
      nextEvent s = .reset ∨ ∃ v : Word, nextEvent s = .memWrite 0x04 4 v ∧ v.getLsbD 4 = true) ∧
    (s.errNokey = true → t.errNokey = false →
      nextEvent s = .reset ∨ ∃ v : Word, nextEvent s = .memWrite 0x04 4 v ∧ v.getLsbD 5 = true) ∧
    (s.errBusy = false → t.errBusy = true → s.pending ≠ none ∧
      ∃ (off : Nat) (v : Word), nextEvent s = .memWrite off 4 v ∧
        (off = 0x00 ∨ off = 0x08 ∨ 0x10 ≤ off ∧ off ≤ 0x2C)) ∧
    (s.errIll = false → t.errIll = true → s.pending = none ∧
      ∃ v : Word, nextEvent s = .memWrite 0x00 4 v ∧ legal v = false) ∧
    (s.errNokey = false → t.errNokey = true → s.pending = none ∧ s.kv = false ∧
      ∃ v : Word, nextEvent s = .memWrite 0x00 4 v ∧ legal v = true ∧ opField v = 0x13)

/-- 10_state.md R28: KV goes to 1 only by the commit of KEXP, ENC or DEC, and to 0 only by an accepted KEY write, the commit of ZERO, or
reset; those commits, writes and resets do it; ARK is refused while KV is 0; and after every step from a good state KV = 1 means
W = ExpandKey(KEY). -/
def Obligations.KeyValidChanges : Prop :=
  (∀ s t : State, step s = .next t → s.kv = false → t.kv = true →
    nextEvent s = .engine ∧ ∃ v : Word, s.pending = some v ∧ (v = 0x00000002 ∨ v = 0x00000003 ∨ v = 0x00000004)) ∧
  (∀ s t : State, step s = .next t → s.kv = true → t.kv = false →
    nextEvent s = .reset ∨ (nextEvent s = .engine ∧ s.pending = some 0x00000001) ∨
      (s.pending = none ∧ ∃ (off : Nat) (v : Word), nextEvent s = .memWrite off 4 v ∧ 0x10 ≤ off ∧ off ≤ 0x1C)) ∧
  (∀ (s : State) (i : Instr), i = .kexp ∨ i = .enc ∨ i = .dec →
    ∃ t, exec i s = .next t ∧ t.kv = true ∧ t.wRam = expandKey s.key) ∧
  (∀ s : State, ∃ t, exec .zero s = .next t ∧ t.kv = false) ∧
  (∀ (s : State) (j : Fin 4) (v : Word), s.pending = none →
    ∃ t, hostWrite (0x10 + 4 * j.val) 4 v s = .next t ∧ t.kv = false) ∧
  (∀ s t : State, nextEvent s = .reset → step s = .next t → t.kv = false) ∧
  (∀ (s : State) (rnd : BitVec 4), rnd.toNat ≤ 10 → s.pending = none → s.kv = false →
    ∃ t, hostWrite 0x00 4 (encode (.ark rnd)) s = .next t ∧ t.errNokey = true ∧ t.pending = none) ∧
  (∀ s t : State, s.Good → step s = .next t → t.kv = true → t.wRam = expandKey t.key)

/-- 10_state.md R26: DONE goes to 1 only by a commit, and every commit sets it; it goes to 0 only by a CMD write made while BUSY = 0, a STATUS
write of 1 to bit 1, or reset, and each of these leaves it 0; a CMD write made while BUSY = 1 does not change it. -/
def Obligations.DoneChanges : Prop :=
  (∀ s t : State, step s = .next t → s.done = false → t.done = true →
    nextEvent s = .engine ∧ s.pending ≠ none) ∧
  (∀ s t : State, step s = .next t → nextEvent s = .engine → s.pending ≠ none → t.done = true ∧ t.pending = none) ∧
  (∀ s t : State, step s = .next t → s.done = true → t.done = false →
    nextEvent s = .reset ∨ (∃ v : Word, nextEvent s = .memWrite 0x04 4 v ∧ v.getLsbD 1 = true) ∨
      (s.pending = none ∧ ∃ v : Word, nextEvent s = .memWrite 0x00 4 v)) ∧
  (∀ (s t : State) (v : Word), step s = .next t → nextEvent s = .memWrite 0x00 4 v →
    (s.pending = none → t.done = false) ∧ (s.pending ≠ none → t.done = s.done)) ∧
  (∀ (s t : State) (v : Word), step s = .next t → nextEvent s = .memWrite 0x04 4 v → v.getLsbD 1 = true → t.done = false) ∧
  (∀ s t : State, step s = .next t → nextEvent s = .reset → t.done = false)

/-- 10_state.md R35, R36: no command but ZERO changes KEY or DIN; besides ZERO only reset and a host write to that register group, taken
while BUSY = 0, do. -/
def Obligations.KeyAndDinChangeOnlyByHostZeroReset : Prop :=
  ∀ s t : State, step s = .next t →
    (t.key ≠ s.key → nextEvent s = .reset ∨ (nextEvent s = .engine ∧ s.pending = some 0x00000001) ∨
      (s.pending = none ∧ ∃ (off : Nat) (v : Word), nextEvent s = .memWrite off 4 v ∧ 0x10 ≤ off ∧ off ≤ 0x1C)) ∧
    (t.din ≠ s.din → nextEvent s = .reset ∨ (nextEvent s = .engine ∧ s.pending = some 0x00000001) ∨
      (s.pending = none ∧ ∃ (off : Nat) (v : Word), nextEvent s = .memWrite off 4 v ∧ 0x20 ≤ off ∧ off ≤ 0x2C))

/-- 10_state.md R27, 70_reset_and_hazards.md R296, R297: while a command is pending, a step other than its commit or reset leaves the
command pending and every data register, S, W and KV as they were. -/
def Obligations.InputsLockedAndOutputsStaleWhileBusy : Prop :=
  ∀ s t : State, s.pending ≠ none → nextEvent s ≠ .engine → nextEvent s ≠ .reset → step s = .next t →
    t.pending = s.pending ∧ (∀ p : Part, sameAt p s t)

/-- 60_exceptions.md R261, 10_state.md R26, R28 and 43_state_transforms.md R193 as one invariant: PENDING holds only a legal word, a pending
ARK has KV = 1, DONE is 0 while BUSY is 1, and KV = 1 means W = ExpandKey(KEY). Every step from every state that meets it keeps it. -/
def Obligations.EveryStepKeepsGood : Prop :=
  ∀ s t : State, s.Good → step s = .next t → t.Good

/-- The invariant holds after reset (10_state.md R38). -/
def Obligations.ResetIsGood : Prop := State.reset.Good

/-- 60_exceptions.md R260, R261: from a state that meets the invariant no step is refused but a transaction outside the window (the model's
choice, log 4), and a step faults only as BusError on a transaction whose size or alignment is wrong. -/
def Obligations.GoodStatesNeverGetStuck : Prop :=
  ∀ s : State, s.Good → endsAsTheSpecAllows (step s) ∧
    (∀ f : Fault, step s = .fault f → ∃ (off size : Nat) (v : Word),
      (nextEvent s = .memRead off size ∨ nextEvent s = .memWrite off size v) ∧ (size ≠ 4 ∨ off % 4 ≠ 0)) ∧
    (∀ r : Refusal, step s = .refused r ↔ ∃ (off size : Nat) (v : Word),
      (nextEvent s = .memRead off size ∨ nextEvent s = .memWrite off size v) ∧ off ≥ 64 ∧
        r = .outsideWindow (Config.aesBase + off))

/-- 60_exceptions.md R260, R262: the commit of every well-formed command, in every state, answers a next state, in which nothing is pending,
DONE is 1 and the error flags are as before; the agents' schedule and the read data (the model's own) are not touched. A term that is
not well formed is no command, since no word decodes to it, and is refused by name (the model's choice, log 8). -/
def Obligations.CommitNeverFails : Prop :=
  (∀ (i : Instr) (s : State), i.wellFormed = true →
    ∃ t, exec i s = .next t ∧ t.pending = none ∧ t.done = true ∧ errorFlags t = errorFlags s ∧
      t.inputs = s.inputs ∧ t.rdata = s.rdata) ∧
  (∀ (i : Instr) (s : State), i.wellFormed = false →
    (∀ v : Word, decode v ≠ .ok i) ∧ ∃ imm, exec i s = .refused (.immediateOutOfRange imm))

/-- 70_reset_and_hazards.md R301 (the model assumes fairness), by the model's choice of log 1: when the scheduled steps are over, one more step
leaves nothing pending. -/
def Obligations.PendingCommandCommitsAfterTheScheduledSteps : Prop :=
  ∀ s t : State, Host.Core.run Sys2Proof.core (s.inputs.length + 1) s = .next t → t.quiescent

/-- 10_state.md R21, the column "writes": the commit of a command leaves every part it does not write, and the error flags, as
they were, and so every register of the window that shows such a part reads as before. -/
def Obligations.CommandsWriteOnlyTheirRegisters : Prop :=
  ∀ (i : Instr) (s t : State), exec i s = .next t →
    (∀ p : Part, p ∉ writesOf i → sameAt p s t) ∧ errorFlags t = errorFlags s ∧
    (∀ (r : Reg) (p : Part), partRead r = some p → p ∉ writesOf i → readReg r t = readReg r s)

/-- 10_state.md R21, the column "reads": what a command writes depends on nothing but what it reads. -/
def Obligations.CommandsDependOnlyOnWhatTheyRead : Prop :=
  ∀ (i : Instr) (s s' t t' : State), exec i s = .next t → exec i s' = .next t' →
    (∀ p ∈ readsOf i, sameAt p s s') → ∀ p ∈ writesOf i, sameAt p t t'

/-! ### Words, tables and the field -/

/-- 00_scope.md R8: byte positions and `word(b0, b1, b2, b3)`, with byte position 0 the least significant. -/
def Obligations.BytesOfAWord : Prop :=
  (∀ b0 b1 b2 b3 : Byte, (wordOf b0 b1 b2 b3).toNat =
    b0.toNat + b1.toNat * 2 ^ 8 + b2.toNat * 2 ^ 16 + b3.toNat * 2 ^ 24) ∧
  (∀ (w : Word) (k : Fin 4), (byteAt w k).toNat = w.toNat / 2 ^ (8 * k.val) % 256) ∧
  (∀ (b : Quad Byte) (k : Fin 4), byteAt (wordOf b.a0 b.a1 b.a2 b.a3) k = b.get k) ∧
  (∀ w : Word, wordOf (byteAt w 0) (byteAt w 1) (byteAt w 2) (byteAt w 3) = w)

/-- 40_gf_arith.md R121: `xtime` on the byte's number. -/
def Obligations.XtimeDoublesAndReduces : Prop :=
  ∀ b : Byte, (xtime b).toNat = (2 * b.toNat % 256) ^^^ (if b.toNat ≥ 128 then 0x1B else 0x00)

/-- 40_gf_arith.md R120, R122: `gmul` is multiplication of polynomials over GF(2) modulo x^8+x^4+x^3+x+1. -/
def Obligations.GmulIsPolynomialProductModulo0x11B : Prop :=
  ∀ a b : Byte, (gmul a b).toNat = polyRemainder (polyProduct a.toNat b.toNat)

/-- 40_gf_arith.md R123: the laws of `gmul`. -/
def Obligations.GmulFieldLaws : Prop :=
  (∀ a b : Byte, gmul a b = gmul b a) ∧ (∀ a : Byte, gmul a 0x00 = 0x00) ∧ (∀ a : Byte, gmul a 0x01 = a) ∧
  (∀ a : Byte, gmul a 0x02 = xtime a) ∧ (∀ a : Byte, gmul a 0x03 = xtime a ^^^ a) ∧
  (∀ a b c : Byte, gmul a (b ^^^ c) = gmul a b ^^^ gmul a c) ∧
  (∀ a b c : Byte, gmul (gmul a b) c = gmul a (gmul b c)) ∧
  (∀ a b : Byte, gmul a b = 0x00 → a = 0x00 ∨ b = 0x00)

/-- 41_sbox.md R141, R143: SBOX is the affine map of the field inverse, which is unique; the two tables are inverse permutations; SBOX has no fixed point and no
complemented fixed point. -/
def Obligations.SubstitutionTables : Prop :=
  sbox 0x00 = affine 0x00 ∧
  (∀ x y : Byte, gmul x y = 0x01 → sbox x = affine y) ∧
  (∀ x : Byte, x ≠ 0x00 → ∃ y : Byte, gmul x y = 0x01) ∧
  (∀ x y z : Byte, gmul x y = 0x01 → gmul x z = 0x01 → y = z) ∧
  (∀ x : Byte, invSbox (sbox x) = x) ∧ (∀ x : Byte, sbox (invSbox x) = x) ∧
  (∀ x : Byte, sbox x ≠ x) ∧ (∀ x : Byte, sbox x ≠ x ^^^ 0xFF)

/-! ### The key expander -/

/-- 42_key_expander.md R151 to R154: the word functions and the round constants. -/
def Obligations.KeyExpanderWordFunctions : Prop :=
  (∀ w : Word, rotWord w = (w >>> 8) ||| (w <<< 24)) ∧
  (∀ (w : Word) (k : Fin 4), byteAt (rotWord w) k = byteAt w (k + 1)) ∧
  (∀ (w : Word) (k : Fin 4), byteAt (subWord w) k = sbox (byteAt w k)) ∧
  (∀ w : Word, subWord (rotWord w) = rotWord (subWord w)) ∧
  (List.ofFn rcon = [1, 2, 4, 8, 16, 32, 64, 128, 0x1B, 0x36]) ∧
  (∀ r : Fin 9, rcon r.succ = xtime (rcon r.castSucc)) ∧
  (∀ r : Fin 10, rconWord r = wordOf (rcon r) 0x00 0x00 0x00 ∧ (rconWord r).toNat = (rcon r).toNat) ∧
  (∀ (w : Word) (r : Fin 10) (k : Fin 4), byteAt (w ^^^ rconWord r) k = byteAt w k ^^^ (if k = 0 then rcon r else 0x00))

/-- 42_key_expander.md R155: the schedule's recurrence at every index. -/
def Obligations.ExpandKeyRecurrence : Prop :=
  ∀ k : Quad Word,
    (∀ j : Fin 4, (expandKey k)[j.val]'(by omega) = k.get j) ∧
    (∀ (i : Nat) (h : 4 ≤ i ∧ i < 44), i % 4 ≠ 0 →
      (expandKey k)[i] = (expandKey k)[i - 4] ^^^ (expandKey k)[i - 1]) ∧
    (∀ (i : Nat) (h : 4 ≤ i ∧ i < 44), i % 4 = 0 →
      (expandKey k)[i] = (expandKey k)[i - 4] ^^^
        (subWord (rotWord (expandKey k)[i - 1]) ^^^ rconWord ⟨i / 4 - 1, by omega⟩))

/-! ### The state transformations -/

/-- 43_state_transforms.md R181, R182, R183, R184, R187: the byte-wise and row functions, cell by cell; the rows of ShiftRows and InvShiftRows as
the spec lists them. -/
def Obligations.ByteAndRowTransformsCellByCell : Prop :=
  ∀ m : StateMatrix,
    (∀ r c : Fin 4, cell (subBytes m) r c = sbox (cell m r c)) ∧
    (∀ r c : Fin 4, cell (invSubBytes m) r c = invSbox (cell m r c)) ∧
    (∀ r c : Fin 4, ∃ c' : Fin 4, c'.val = (r.val + c.val) % 4 ∧ cell (shiftRows m) r c = cell m r c') ∧
    (∀ r c : Fin 4, ∃ c' : Fin 4, (c'.val : Int) = ((c.val : Int) - r.val) % 4 ∧ cell (invShiftRows m) r c = cell m r c') ∧
    (shiftRows m).a0 = m.a0 ∧ (shiftRows m).a1 = ⟨cell m 1 1, cell m 1 2, cell m 1 3, cell m 1 0⟩ ∧
    (shiftRows m).a2 = ⟨cell m 2 2, cell m 2 3, cell m 2 0, cell m 2 1⟩ ∧
    (shiftRows m).a3 = ⟨cell m 3 3, cell m 3 0, cell m 3 1, cell m 3 2⟩ ∧
    (∀ (w : Vector Word 44) (rnd : Fin 11) (r c : Fin 4), cell (addRoundKey m w rnd) r c =
      cell m r c ^^^ byteAt (w[4 * rnd.val + c.val]'(by omega)) r) ∧
    (∀ (w : Vector Word 44) (rnd : Fin 11), addRoundKey (addRoundKey m w rnd) w rnd = m)

/-- 43_state_transforms.md R185, R186: MixColumns and InvMixColumns, cell by cell, in the general form of the rule (indices mod 4), and
that the second undoes the first. -/
def Obligations.MixColumnsCellByCell : Prop :=
  (∀ m : StateMatrix, invMixColumns (mixColumns m) = m) ∧
  ∀ (m : StateMatrix) (r c : Fin 4),
    cell (mixColumns m) r c =
      gmul 2 (cell m r c) ^^^ gmul 3 (cell m (r + 1) c) ^^^ cell m (r + 2) c ^^^ cell m (r + 3) c ∧
    cell (invMixColumns m) r c =
      gmul 0x0E (cell m r c) ^^^ gmul 0x0B (cell m (r + 1) c) ^^^ gmul 0x0D (cell m (r + 2) c) ^^^
        gmul 0x09 (cell m (r + 3) c)

/-- 43_state_transforms.md R189: the laws of the state functions: the inverses in both orders, AddRoundKey its own inverse, and the byte-wise
functions commuting with the row functions. -/
def Obligations.StateTransformLaws : Prop :=
  ∀ m : StateMatrix,
    invShiftRows (shiftRows m) = m ∧ shiftRows (invShiftRows m) = m ∧
    invMixColumns (mixColumns m) = m ∧ mixColumns (invMixColumns m) = m ∧
    invSubBytes (subBytes m) = m ∧ subBytes (invSubBytes m) = m ∧
    (∀ (w : Vector Word 44) (rnd : Fin 11), addRoundKey (addRoundKey m w rnd) w rnd = m) ∧
    subBytes (shiftRows m) = shiftRows (subBytes m) ∧ subBytes (invShiftRows m) = invShiftRows (subBytes m) ∧
    invSubBytes (shiftRows m) = shiftRows (invSubBytes m) ∧ invSubBytes (invShiftRows m) = invShiftRows (invSubBytes m)

/-- 45_serialization.md R240 to R242: the block and state mappings, their round trips, and the same in register terms. -/
def Obligations.SerializationRoundTrips : Prop :=
  (∀ (b : Vector Byte 16) (r c : Fin 4), cell (deserialize b) r c = b[4 * c.val + r.val]'(by omega)) ∧
  (∀ (m : StateMatrix) (i : Fin 16), (serialize m)[i] = cell m ⟨i.val % 4, by omega⟩ ⟨i.val / 4, by omega⟩) ∧
  (∀ b : Vector Byte 16, serialize (deserialize b) = b) ∧
  (∀ m : StateMatrix, deserialize (serialize m) = m) ∧
  (∀ (d : Quad Word) (r c : Fin 4), cell (deserialize (blockOfRegs d)) r c = byteAt (d.get c) r) ∧
  (∀ (m : StateMatrix) (c : Fin 4),
    (regsOfBlock (serialize m)).get c = wordOf (cell m 0 c) (cell m 1 c) (cell m 2 c) (cell m 3 c))

/-! ### The commands -/

/-- 46_system.md R250: NOP. -/
def Obligations.NopChangesOnlyTheCompletionFlags : Prop :=
  CommandRule .nop 0x00000000 0 (fun s => s) ∧
  (∀ s : State, statusWord s = 0x00000002 → ∃ t u, hostWrite 0x00 4 0x00000000 s = .next t ∧ statusWord t = 0x00000001 ∧
    exec .nop t = .next u ∧ statusWord u = 0x00000002)

/-- 46_system.md R251: ZERO; afterwards every data register and store is as after reset, the error flags as before, and ARK is rejected
until KEXP, ENC or DEC has run. -/
def Obligations.ZeroErasesKeyAndData : Prop :=
  CommandRule .zero 0x00000001 0 (fun s => { s with
    key := ⟨0, 0, 0, 0⟩, din := ⟨0, 0, 0, 0⟩, dout := ⟨0, 0, 0, 0⟩, wRam := Vector.ofFn fun _ => 0,
    sMat := matrixOf fun _ _ => 0, wreg := 0, kv := false }) ∧
  (∀ s : State, ∃ t, exec .zero s = .next t ∧ (∀ p : Part, sameAt p t State.reset) ∧ errorFlags t = errorFlags s ∧
    (errorFlags s = [false, false, false] → statusWord t = 0x00000002) ∧
    (∀ rnd : BitVec 4, rnd.toNat ≤ 10 →
      hostWrite 0x00 4 (encode (.ark rnd)) t = .next { t with done := false, errNokey := true } ∧
      (∀ i : Instr, i = .kexp ∨ i = .enc ∨ i = .dec → ∃ u, exec i t = .next u ∧
        hostWrite 0x00 4 (encode (.ark rnd)) u = .next { u with done := false, pending := some (encode (.ark rnd)) })))

/-- 42_key_expander.md R160: KEXP, with the example of the rule and the schedule of the all-zero key. -/
def Obligations.KexpExpandsTheKey : Prop :=
  CommandRule .kexp 0x00000002 0 (fun s => { s with wRam := expandKey s.key, kv := true }) ∧
  (∀ j : Fin 4, (expandKey ⟨0, 0, 0, 0⟩)[4 + j.val]'(by omega) = 0x63636362) ∧
  (expandKey ⟨0x16157E2B, 0xA6D2AE28, 0x8815F7AB, 0x3C4FCF09⟩)[4] = 0x17FEFAA0 ∧
  (expandKey ⟨0x16157E2B, 0xA6D2AE28, 0x8815F7AB, 0x3C4FCF09⟩)[43] = 0xA60C63B6 ∧
  (∀ s : State, ∃ t u, exec .kexp s = .next t ∧ exec .kexp t = .next u ∧ u = t) ∧
  (∀ (s : State) (v : Word) (j : Fin 4), s.pending = some 0x00000002 →
    ∃ t, hostWrite (0x10 + 4 * j.val) 4 v s = .next t ∧ t.key = s.key)

/-- 44_cipher_driver.md R223: ENC, with the round sequence of R220, so that DOUT holds Cipher(b, KEY); the example of the rule and the all-zero vector. -/
def Obligations.EncEncryptsDinIntoDout : Prop :=
  CommandRule .enc 0x00000003 0 (fun s =>
    let m := encRounds (expandKey s.key) (deserialize (blockOfRegs s.din))
    { s with wRam := expandKey s.key, kv := true, sMat := m, dout := regsOfMatrix m }) ∧
  (∀ s : State, ∃ t, exec .enc s = .next t ∧ blockOfRegs t.dout = cipher (blockOfRegs s.din) s.key ∧
    t.sMat = deserialize (cipher (blockOfRegs s.din) s.key) ∧ t.din = s.din ∧ t.key = s.key) ∧
  (∀ (w : Vector Word 44) (m : StateMatrix), ∃ x : Fin 10 → StateMatrix, x 0 = addRoundKey m w 0 ∧
    (∀ n : Fin 9, x n.succ = addRoundKey (mixColumns (shiftRows (subBytes (x n.castSucc)))) w ⟨n.val + 1, by omega⟩) ∧
    encRounds w m = addRoundKey (shiftRows (subBytes (x 9))) w 10) ∧
  (∀ s : State, s.key = ⟨0x74616854, 0x796D2073, 0x6E754B20, 0x75462067⟩ →
    s.din = ⟨0x206F7754, 0x20656E4F, 0x656E694E, 0x6F775420⟩ →
    ∃ t, exec .enc s = .next t ∧ t.dout = ⟨0x5F50C329, 0xF6201457, 0xB3992240, 0x3AD7021A⟩) ∧
  (∀ s : State, s.key = ⟨0, 0, 0, 0⟩ → s.din = ⟨0, 0, 0, 0⟩ →
    ∃ t, exec .enc s = .next t ∧ t.dout = ⟨0xD44BE966, 0x3B2C8AEF, 0x59FA4C88, 0x2E2B34CA⟩)

/-- 44_cipher_driver.md R224: DEC, with the round sequence of R221 (the forward schedule, ARK before InvMixColumns), so that DOUT holds
InvCipher(b, KEY); and the example of the rule. -/
def Obligations.DecDecryptsDinIntoDout : Prop :=
  CommandRule .dec 0x00000004 0 (fun s =>
    let m := decRounds (expandKey s.key) (deserialize (blockOfRegs s.din))
    { s with wRam := expandKey s.key, kv := true, sMat := m, dout := regsOfMatrix m }) ∧
  (∀ s : State, ∃ t, exec .dec s = .next t ∧ blockOfRegs t.dout = invCipher (blockOfRegs s.din) s.key ∧
    t.sMat = deserialize (invCipher (blockOfRegs s.din) s.key) ∧ t.din = s.din ∧ t.key = s.key) ∧
  (∀ (w : Vector Word 44) (m : StateMatrix), ∃ x : Fin 10 → StateMatrix, x 0 = addRoundKey m w 10 ∧
    (∀ n : Fin 9, x n.succ = invMixColumns (addRoundKey (invSubBytes (invShiftRows (x n.castSucc))) w ⟨9 - n.val, by omega⟩)) ∧
    decRounds w m = addRoundKey (invSubBytes (invShiftRows (x 9))) w 0) ∧
  (∀ s : State, s.key = ⟨0x74616854, 0x796D2073, 0x6E754B20, 0x75462067⟩ →
    s.din = ⟨0x5F50C329, 0xF6201457, 0xB3992240, 0x3AD7021A⟩ →
    ∃ t, exec .dec s = .next t ∧ t.dout = ⟨0x206F7754, 0x20656E4F, 0x656E694E, 0x6F775420⟩)

/-- 45_serialization.md R243, R244: LOADS and STORES; LOADS then STORES copies DIN to DOUT; STORES after ENC or DEC writes the
same DOUT again; the examples of the rules. -/
def Obligations.LoadsAndStoresMoveTheBlock : Prop :=
  CommandRule .loads 0x00000008 0 (fun s => { s with sMat := matrixOf fun r c => byteAt (s.din.get c) r }) ∧
  CommandRule .stores 0x00000009 0 (fun s => { s with
    dout := Quad.ofFn fun c => wordOf (cell s.sMat 0 c) (cell s.sMat 1 c) (cell s.sMat 2 c) (cell s.sMat 3 c) }) ∧
  (∀ s : State, ∃ t u, exec .loads s = .next t ∧ exec .stores t = .next u ∧ u.dout = s.din) ∧
  (∀ (i : Instr) (s : State), i = .enc ∨ i = .dec →
    ∃ t u, exec i s = .next t ∧ exec .stores t = .next u ∧ u.dout = t.dout) ∧
  (∃ t, exec .stores State.reset = .next t ∧ t.dout = ⟨0, 0, 0, 0⟩) ∧
  (∀ s : State, s.sMat = s0f → ∃ t, exec .stores s = .next t ∧ t.dout = ⟨0x03020100, 0x07060504, 0x0B0A0908, 0x0F0E0D0C⟩) ∧
  (∀ s : State, s.din = ⟨0x03020100, 0x07060504, 0x0B0A0908, 0x0F0E0D0C⟩ → ∃ t, exec .loads s = .next t ∧ t.sMat = s0f)

/-- 43_state_transforms.md R190, R194: SUBB and ISUBB, each undoing the other, with the corner states and examples of the rules. -/
def Obligations.SubbAndIsubbSubstituteBytes : Prop :=
  CommandRule .subb 0x00000010 0 (fun s => { s with sMat := matrixOf fun r c => sbox (cell s.sMat r c) }) ∧
  CommandRule .isubb 0x00000018 0 (fun s => { s with sMat := matrixOf fun r c => invSbox (cell s.sMat r c) }) ∧
  (∀ s : State, ∃ t u, exec .subb s = .next t ∧ exec .isubb t = .next u ∧ u.sMat = s.sMat) ∧
  (∀ s : State, ∃ t u, exec .isubb s = .next t ∧ exec .subb t = .next u ∧ u.sMat = s.sMat) ∧
  subBytes (matrixOf fun _ _ => 0x00) = (matrixOf fun _ _ => 0x63) ∧
  subBytes (matrixOf fun _ _ => 0xFF) = (matrixOf fun _ _ => 0x16) ∧
  (∀ (m : StateMatrix) (r c : Fin 4), cell (subBytes m) r c ≠ cell m r c) ∧
  invSubBytes (matrixOf fun _ _ => 0x63) = (matrixOf fun _ _ => 0x00) ∧
  invSubBytes (matrixOf fun _ _ => 0x00) = (matrixOf fun _ _ => 0x52) ∧
  subBytes s0f = stateOfBytes #v[0x63, 0x7c, 0x77, 0x7b, 0xf2, 0x6b, 0x6f, 0xc5, 0x30, 0x01, 0x67, 0x2b, 0xfe, 0xd7, 0xab, 0x76] ∧
  invSubBytes s0f = stateOfBytes #v[0x52, 0x09, 0x6a, 0xd5, 0x30, 0x36, 0xa5, 0x38, 0xbf, 0x40, 0xa3, 0x9e, 0x81, 0xf3, 0xd7, 0xfb]

/-- 43_state_transforms.md R191, R195: SHR and ISHR: ISHR undoes SHR and equals three SHRs, four SHRs restore S, row 0 never changes, a
state whose rows are each constant is unchanged; and the examples of the rules. -/
def Obligations.ShrAndIshrShiftRows : Prop :=
  CommandRule .shr 0x00000011 0 (fun s => { s with sMat := matrixOf fun r c => cell s.sMat r (r + c) }) ∧
  CommandRule .ishr 0x00000019 0 (fun s => { s with sMat := matrixOf fun r c => cell s.sMat r (c - r) }) ∧
  (∀ s : State, ∃ t u, exec .shr s = .next t ∧ exec .ishr t = .next u ∧ u.sMat = s.sMat) ∧
  (∀ m : StateMatrix, shiftRows (shiftRows (shiftRows m)) = invShiftRows m ∧
    shiftRows (shiftRows (shiftRows (shiftRows m))) = m ∧ (shiftRows m).a0 = m.a0 ∧ (invShiftRows m).a0 = m.a0) ∧
  (∀ x : Quad Byte, shiftRows (matrixOf fun r _ => x.get r) = matrixOf fun r _ => x.get r) ∧
  shiftRows s0f = stateOfBytes #v[0x00, 0x05, 0x0a, 0x0f, 0x04, 0x09, 0x0e, 0x03, 0x08, 0x0d, 0x02, 0x07, 0x0c, 0x01, 0x06, 0x0b] ∧
  invShiftRows s0f = stateOfBytes #v[0x00, 0x0d, 0x0a, 0x07, 0x04, 0x01, 0x0e, 0x0b, 0x08, 0x05, 0x02, 0x0f, 0x0c, 0x09, 0x06, 0x03]

/-- 43_state_transforms.md R192, R196: MIXC and IMIXC: IMIXC undoes MIXC, a column of four equal bytes is unchanged by either, the column
db 13 53 45 becomes 8e 4d a1 bc and back; and the examples of the rules. -/
def Obligations.MixcAndImixcMixColumns : Prop :=
  CommandRule .mixc 0x00000012 0 (fun s => { s with sMat := mixColumns s.sMat }) ∧
  CommandRule .imixc 0x0000001A 0 (fun s => { s with sMat := invMixColumns s.sMat }) ∧
  (∀ s : State, ∃ t u, exec .mixc s = .next t ∧ exec .imixc t = .next u ∧ u.sMat = s.sMat) ∧
  (∀ b : Byte, mixColumn ⟨b, b, b, b⟩ = ⟨b, b, b, b⟩ ∧ invMixColumn ⟨b, b, b, b⟩ = ⟨b, b, b, b⟩) ∧
  (∀ (m : StateMatrix) (c : Fin 4), column (mixColumns m) c = mixColumn (column m c) ∧
    column (invMixColumns m) c = invMixColumn (column m c)) ∧
  mixColumn ⟨0xdb, 0x13, 0x53, 0x45⟩ = ⟨0x8e, 0x4d, 0xa1, 0xbc⟩ ∧
  invMixColumn ⟨0x8e, 0x4d, 0xa1, 0xbc⟩ = ⟨0xdb, 0x13, 0x53, 0x45⟩ ∧
  mixColumns s0f = stateOfBytes #v[0x02, 0x07, 0x00, 0x05, 0x06, 0x03, 0x04, 0x01, 0x0a, 0x0f, 0x08, 0x0d, 0x0e, 0x0b, 0x0c, 0x09] ∧
  invMixColumns s0f = stateOfBytes #v[0x0a, 0x0f, 0x08, 0x0d, 0x0e, 0x0b, 0x0c, 0x09, 0x02, 0x07, 0x00, 0x05, 0x06, 0x03, 0x04, 0x01]

/-- 43_state_transforms.md R193: ARK rnd for every rnd in 0..10: its effect, the KV check at the CMD write (KV cannot change before the commit), twice restores S, the round-key readout
through STORES, round key 0 is the key itself, and the example of the rule. -/
def Obligations.ArkAddsTheRoundKey : Prop :=
  (∀ (rnd : BitVec 4) (h : rnd.toNat ≤ 10),
    CommandRule (.ark rnd) (0x00000013 + rnd.setWidth 32 * 0x100) 10 (fun s => { s with
      sMat := matrixOf fun r c => cell s.sMat r c ^^^ byteAt (s.wRam[4 * rnd.toNat + c.val]'(by omega)) r }) ∧
    (∀ s : State, s.pending = none → s.kv = false →
      hostWrite 0x00 4 (encode (.ark rnd)) s = .next { s with done := false, errNokey := true }) ∧
    (∀ s : State, ∃ t u, exec (.ark rnd) s = .next t ∧ exec (.ark rnd) t = .next u ∧ u.sMat = s.sMat) ∧
    (∀ s t : State, s.pending = some (encode (.ark rnd)) → nextEvent s ≠ .engine → nextEvent s ≠ .reset →
      step s = .next t → t.kv = s.kv) ∧
    (∀ s : State, s.sMat = (matrixOf fun _ _ => 0x00) → ∃ t u, exec (.ark rnd) s = .next t ∧ exec .stores t = .next u ∧
      ∀ c : Fin 4, u.dout.get c = s.wRam[4 * rnd.toNat + c.val]'(by omega))) ∧
  (∀ s : State, s.Good → s.kv = true → ∀ c : Fin 4, s.wRam[c.val]'(by omega) = s.key.get c) ∧
  (∀ s : State, s.wRam = expandKey ⟨0x16157E2B, 0xA6D2AE28, 0x8815F7AB, 0x3C4FCF09⟩ → s.sMat = s0f →
    ∃ t, exec (.ark 0) s = .next t ∧ t.sMat =
      stateOfBytes #v[0x2b, 0x7f, 0x17, 0x15, 0x2c, 0xab, 0xd4, 0xa1, 0xa3, 0xfe, 0x1f, 0x83, 0x05, 0xc2, 0x41, 0x33])

/-- 42_key_expander.md R157: ROTW; four in a row restore WREG; the example of the rule. -/
def Obligations.RotwRotatesWreg : Prop :=
  CommandRule .rotw 0x00000020 0 (fun s => { s with
    wreg := wordOf (byteAt s.wreg 1) (byteAt s.wreg 2) (byteAt s.wreg 3) (byteAt s.wreg 0) }) ∧
  (∀ w : Word, rotWord (rotWord (rotWord (rotWord w))) = w) ∧
  (∀ b : Byte, rotWord (wordOf b b b b) = wordOf b b b b) ∧
  (∀ s : State, s.wreg = 0x3C4FCF09 → ∃ t, exec .rotw s = .next t ∧ t.wreg = 0x093C4FCF)

/-- 42_key_expander.md R158: SUBW; its corner cases and example. -/
def Obligations.SubwSubstitutesWreg : Prop :=
  CommandRule .subw 0x00000021 0 (fun s => { s with
    wreg := wordOf (sbox (byteAt s.wreg 0)) (sbox (byteAt s.wreg 1)) (sbox (byteAt s.wreg 2)) (sbox (byteAt s.wreg 3)) }) ∧
  subWord 0x00000000 = 0x63636363 ∧ subWord 0xFFFFFFFF = 0x16161616 ∧
  (∀ s : State, s.wreg = 0x093C4FCF → ∃ t, exec .subw s = .next t ∧ t.wreg = 0x01EB848A)

/-- 42_key_expander.md R159: RCON r for every r in 0..9: only WREG[7:0] changes, twice restores WREG; the example of the rule. -/
def Obligations.RconXorsTheRoundConstant : Prop :=
  (∀ (r : BitVec 4) (h : r.toNat ≤ 9),
    CommandRule (.rcon r) (0x00000022 + r.setWidth 32 * 0x100) 9 (fun s => { s with
      wreg := s.wreg ^^^ (rcon ⟨r.toNat, by omega⟩).setWidth 32 }) ∧
    (∀ s : State, ∃ t u, exec (.rcon r) s = .next t ∧ exec (.rcon r) t = .next u ∧ u.wreg = s.wreg ∧
      t.wreg >>> 8 = s.wreg >>> 8)) ∧
  (∀ s : State, s.wreg = 0x00000000 → ∃ t, exec (.rcon 8) s = .next t ∧ t.wreg = 0x0000001B) ∧
  (∀ s : State, s.wreg = 0x00000000 → ∃ t, exec (.rcon 9) s = .next t ∧ t.wreg = 0x00000036) ∧
  (∀ s : State, s.wreg = 0x01EB848A → ∃ t, exec (.rcon 0) s = .next t ∧ t.wreg = 0x01EB848B)

/-- 40_gf_arith.md R124: XTIME; its corner cases and example. -/
def Obligations.XtimeDoublesTheLowByteOfWreg : Prop :=
  CommandRule .xtime 0x00000028 0 (fun s => { s with wreg := (xtime (s.wreg.extractLsb' 0 8)).setWidth 32 }) ∧
  xtime 0x00 = 0x00 ∧ xtime 0x80 = 0x1B ∧ xtime 0xFF = 0xE5 ∧ xtime 0x7F = 0xFE ∧
  (∀ s : State, ∃ t, exec .xtime s = .next t ∧ t.wreg >>> 8 = 0) ∧
  (∀ s : State, s.wreg = 0x12345657 → ∃ t, exec .xtime s = .next t ∧ t.wreg = 0x000000AE)

/-- 40_gf_arith.md R125: GMUL; its corner cases and example. -/
def Obligations.GmulMultipliesTwoBytesOfWreg : Prop :=
  CommandRule .gmul 0x00000029 0 (fun s => { s with
    wreg := (gmul (s.wreg.extractLsb' 0 8) (s.wreg.extractLsb' 8 8)).setWidth 32 }) ∧
  (∀ b : Byte, gmul 0x00 b = 0x00 ∧ gmul b 0x00 = 0x00 ∧ gmul 0x01 b = b ∧ gmul b 0x01 = b) ∧
  (∀ a b : Byte, gmul a b = gmul b a) ∧
  (∀ s : State, ∃ t, exec .gmul s = .next t ∧ t.wreg >>> 8 = 0) ∧
  (∀ s : State, s.wreg = 0x00008357 → ∃ t, exec .gmul s = .next t ∧ t.wreg = 0x000000C1)

/-! ### The drivers as a whole -/

/-- 44_cipher_driver.md R225: InvCipher(Cipher(b, K), K) = b for every block and key; and in register terms, ENC then DEC with the same KEY and with
DIN set to the DOUT of ENC restores the original DIN value in DOUT. -/
def Obligations.DecryptionUndoesEncryption : Prop :=
  (∀ (b : Vector Byte 16) (k : Quad Word), invCipher (cipher b k) k = b) ∧
  (∀ s : State, ∃ t u, exec .enc s = .next t ∧ exec .dec { t with din := t.dout } = .next u ∧ u.dout = s.din)

/-- 44_cipher_driver.md R227, 70_reset_and_hazards.md R302: from any idle block, a host that runs the single-step commands one by one reaches exactly
the state that ENC, or DEC, reaches in one command (the Engine commits each command right after its CMD
write: the statement names this one schedule of the agents, the model's choice of log 1, and says nothing about another). -/
def Obligations.SingleStepsEqualTheDrivers : Prop :=
  ∀ s : State, s.pending = none →
    Host.Core.run Sys2Proof.core (2 * encSteps.length) { s with inputs := runCommands encSteps } =
      Host.Core.run Sys2Proof.core 2 { s with inputs := runCommands [.enc] } ∧
    Host.Core.run Sys2Proof.core (2 * decSteps.length) { s with inputs := runCommands decSteps } =
      Host.Core.run Sys2Proof.core 2 { s with inputs := runCommands [.dec] } ∧
    ∃ t u, Host.Core.run Sys2Proof.core 2 { s with inputs := runCommands [.enc] } = .next t ∧
      Host.Core.run Sys2Proof.core 2 { s with inputs := runCommands [.dec] } = .next u
end

