-- ==== Sys2Proof/Laws/Quad.lean ====
section
/-! SUPPORT. Reading and building groups of four and the state matrix. -/

namespace Sys2Proof

namespace Quad

variable {α : Type}

@[simp] theorem get_ofFn (f : Fin 4 → α) (i : Fin 4) : (ofFn f).get i = f i := by
  fin_cases i <;> rfl

@[simp] theorem ofFn_get (q : Quad α) : ofFn q.get = q := rfl

@[simp] theorem get_all (v : α) (i : Fin 4) : (all v).get i = v := by
  fin_cases i <;> rfl

/-- Two groups of four with the same elements are the same. -/
theorem ext_get {p q : Quad α} (h : ∀ i, p.get i = q.get i) : p = q := by
  rw [← ofFn_get p, ← ofFn_get q, funext h]

theorem get_set (q : Quad α) (j k : Fin 4) (v : α) : (q.set j v).get k = if k = j then v else q.get k := by
  fin_cases j <;> fin_cases k <;> rfl

@[simp] theorem get_set_same (q : Quad α) (j : Fin 4) (v : α) : (q.set j v).get j = v := by
  simp [get_set]

end Quad

namespace Machine

@[simp] theorem cell_matrixOf (f : Fin 4 → Fin 4 → Byte) (r c : Fin 4) : cell (matrixOf f) r c = f r c := by
  simp [cell, matrixOf]

@[simp] theorem matrixOf_cell (m : StateMatrix) : (matrixOf fun r c => cell m r c) = m := rfl

/-- Two state matrices with the same cells are the same. -/
theorem matrix_ext {m n : StateMatrix} (h : ∀ r c, cell m r c = cell n r c) : m = n :=
  Quad.ext_get fun r => Quad.ext_get fun c => h r c

@[simp] theorem get_column (m : StateMatrix) (r c : Fin 4) : (column m c).get r = cell m r c := by
  simp [column]

end Machine

end Sys2Proof
end

