-- ==== Sys2Proof/Laws/Bytes.lean ====
section
/-! SUPPORT. The byte positions of a word (00_scope.md R8): taking bytes out of a word and putting them together. -/

namespace Sys2Proof.Machine

/-- The byte of a word holding bit `i`, and the place of that bit in it. -/
theorem getLsbD_byteAt (w : Word) (k : Fin 4) (i : Nat) (h : i < 8) :
    (byteAt w k).getLsbD i = w.getLsbD (8 * k.val + i) := by
  simp [byteAt, h]

@[simp] theorem byteAt_wordOf (b : Quad Byte) (k : Fin 4) : byteAt (wordOf b.a0 b.a1 b.a2 b.a3) k = b.get k := by
  ext i hi
  fin_cases k <;> simp [byteAt, wordOf, Quad.get] <;> interval_cases i <;> simp

theorem byteAt_wordOf_0 (b0 b1 b2 b3 : Byte) : byteAt (wordOf b0 b1 b2 b3) 0 = b0 := byteAt_wordOf ⟨b0, b1, b2, b3⟩ 0

theorem byteAt_wordOf_1 (b0 b1 b2 b3 : Byte) : byteAt (wordOf b0 b1 b2 b3) 1 = b1 := byteAt_wordOf ⟨b0, b1, b2, b3⟩ 1

theorem byteAt_wordOf_2 (b0 b1 b2 b3 : Byte) : byteAt (wordOf b0 b1 b2 b3) 2 = b2 := byteAt_wordOf ⟨b0, b1, b2, b3⟩ 2

theorem byteAt_wordOf_3 (b0 b1 b2 b3 : Byte) : byteAt (wordOf b0 b1 b2 b3) 3 = b3 := byteAt_wordOf ⟨b0, b1, b2, b3⟩ 3

/-- A word is the four bytes it is made of. -/
@[simp] theorem wordOf_byteAt (w : Word) : wordOf (byteAt w 0) (byteAt w 1) (byteAt w 2) (byteAt w 3) = w := by
  ext i hi
  simp [byteAt, wordOf]
  interval_cases i <;> simp

/-- Two words with the same four bytes are the same. -/
theorem word_ext_bytes {v w : Word} (h : ∀ k, byteAt v k = byteAt w k) : v = w := by
  rw [← wordOf_byteAt v, ← wordOf_byteAt w, h 0, h 1, h 2, h 3]

end Sys2Proof.Machine
end

