-- ==== Sys2Proof/Laws/Decode.lean ====
section
/-! SUPPORT. The four fields of a command word (30_encoding.md R90): as numbers, and a word put together from them. -/

namespace Sys2Proof

theorem opField_toNat (v : Word) : (opField v).toNat = v.toNat % 64 := by
  simp [opField]

theorem immField_toNat (v : Word) : (immField v).toNat = v.toNat / 2 ^ 8 % 16 := by
  simp [immField, Nat.shiftRight_eq_div_pow]

theorem rsv0Field_toNat (v : Word) : (rsv0Field v).toNat = v.toNat / 2 ^ 6 % 4 := by
  simp [rsv0Field, Nat.shiftRight_eq_div_pow]

theorem rsv1Field_toNat (v : Word) : (rsv1Field v).toNat = v.toNat / 2 ^ 12 := by
  simp [rsv1Field, Nat.shiftRight_eq_div_pow]
  omega

/-- A word is its four fields. -/
theorem word_eq_fields (v : Word) : v = (opField v).setWidth 32 ||| ((rsv0Field v).setWidth 32 <<< 6) |||
    ((immField v).setWidth 32 <<< 8) ||| ((rsv1Field v).setWidth 32 <<< 12) := by
  ext i hi
  simp [opField, rsv0Field, immField, rsv1Field]
  interval_cases i <;> simp

/-- A word with no reserved bit set is its opcode and its immediate. -/
theorem word_eq_op_imm (v : Word) (h0 : rsv0Field v = 0) (h1 : rsv1Field v = 0) :
    v = (opField v).setWidth 32 ||| ((immField v).setWidth 32 <<< 8) := by
  have h := word_eq_fields v
  rw [h0, h1] at h
  simpa using h

end Sys2Proof
end

