-- ==== Sys2Proof/Laws/State.lean ====
section
/-! SUPPORT. One lemma per field per update: what each named update of the state leaves in each field. Provers use these
instead of unfolding the updates. -/

namespace Sys2Proof.Machine

variable (s : State)

@[simp] theorem complete_pending : (complete s).pending = none := rfl

@[simp] theorem complete_done : (complete s).done = true := rfl

@[simp] theorem complete_kv : (complete s).kv = s.kv := rfl

@[simp] theorem complete_errBusy : (complete s).errBusy = s.errBusy := rfl

@[simp] theorem complete_errIll : (complete s).errIll = s.errIll := rfl

@[simp] theorem complete_errNokey : (complete s).errNokey = s.errNokey := rfl

@[simp] theorem complete_wreg : (complete s).wreg = s.wreg := rfl

@[simp] theorem complete_key : (complete s).key = s.key := rfl

@[simp] theorem complete_din : (complete s).din = s.din := rfl

@[simp] theorem complete_dout : (complete s).dout = s.dout := rfl

@[simp] theorem complete_sMat : (complete s).sMat = s.sMat := rfl

@[simp] theorem complete_wRam : (complete s).wRam = s.wRam := rfl

@[simp] theorem complete_inputs : (complete s).inputs = s.inputs := rfl

@[simp] theorem complete_rdata : (complete s).rdata = s.rdata := rfl

@[simp] theorem takeInput_pending : (takeInput s).pending = s.pending := rfl

@[simp] theorem takeInput_done : (takeInput s).done = s.done := rfl

@[simp] theorem takeInput_kv : (takeInput s).kv = s.kv := rfl

@[simp] theorem takeInput_errBusy : (takeInput s).errBusy = s.errBusy := rfl

@[simp] theorem takeInput_errIll : (takeInput s).errIll = s.errIll := rfl

@[simp] theorem takeInput_errNokey : (takeInput s).errNokey = s.errNokey := rfl

@[simp] theorem takeInput_wreg : (takeInput s).wreg = s.wreg := rfl

@[simp] theorem takeInput_key : (takeInput s).key = s.key := rfl

@[simp] theorem takeInput_din : (takeInput s).din = s.din := rfl

@[simp] theorem takeInput_dout : (takeInput s).dout = s.dout := rfl

@[simp] theorem takeInput_sMat : (takeInput s).sMat = s.sMat := rfl

@[simp] theorem takeInput_wRam : (takeInput s).wRam = s.wRam := rfl

@[simp] theorem takeInput_inputs : (takeInput s).inputs = s.inputs.tail := rfl

@[simp] theorem takeInput_rdata : (takeInput s).rdata = none := rfl

@[simp] theorem loadSchedule_pending : (loadSchedule s).pending = s.pending := rfl

@[simp] theorem loadSchedule_done : (loadSchedule s).done = s.done := rfl

@[simp] theorem loadSchedule_kv : (loadSchedule s).kv = true := rfl

@[simp] theorem loadSchedule_errBusy : (loadSchedule s).errBusy = s.errBusy := rfl

@[simp] theorem loadSchedule_errIll : (loadSchedule s).errIll = s.errIll := rfl

@[simp] theorem loadSchedule_errNokey : (loadSchedule s).errNokey = s.errNokey := rfl

@[simp] theorem loadSchedule_wreg : (loadSchedule s).wreg = s.wreg := rfl

@[simp] theorem loadSchedule_key : (loadSchedule s).key = s.key := rfl

@[simp] theorem loadSchedule_din : (loadSchedule s).din = s.din := rfl

@[simp] theorem loadSchedule_dout : (loadSchedule s).dout = s.dout := rfl

@[simp] theorem loadSchedule_sMat : (loadSchedule s).sMat = s.sMat := rfl

@[simp] theorem loadSchedule_wRam : (loadSchedule s).wRam = expandKey s.key := rfl

@[simp] theorem loadSchedule_inputs : (loadSchedule s).inputs = s.inputs := rfl

@[simp] theorem loadSchedule_rdata : (loadSchedule s).rdata = s.rdata := rfl

@[simp] theorem eraseData_pending : (eraseData s).pending = s.pending := rfl

@[simp] theorem eraseData_done : (eraseData s).done = s.done := rfl

@[simp] theorem eraseData_kv : (eraseData s).kv = false := rfl

@[simp] theorem eraseData_errBusy : (eraseData s).errBusy = s.errBusy := rfl

@[simp] theorem eraseData_errIll : (eraseData s).errIll = s.errIll := rfl

@[simp] theorem eraseData_errNokey : (eraseData s).errNokey = s.errNokey := rfl

@[simp] theorem eraseData_wreg : (eraseData s).wreg = 0 := rfl

@[simp] theorem eraseData_key : (eraseData s).key = Quad.all 0 := rfl

@[simp] theorem eraseData_din : (eraseData s).din = Quad.all 0 := rfl

@[simp] theorem eraseData_dout : (eraseData s).dout = Quad.all 0 := rfl

@[simp] theorem eraseData_sMat : (eraseData s).sMat = Quad.all (Quad.all 0) := rfl

@[simp] theorem eraseData_wRam : (eraseData s).wRam = Vector.replicate 44 0 := rfl

@[simp] theorem eraseData_inputs : (eraseData s).inputs = s.inputs := rfl

@[simp] theorem eraseData_rdata : (eraseData s).rdata = s.rdata := rfl

@[simp] theorem resetBlock_pending : (resetBlock s).pending = State.reset.pending := rfl

@[simp] theorem resetBlock_done : (resetBlock s).done = State.reset.done := rfl

@[simp] theorem resetBlock_kv : (resetBlock s).kv = State.reset.kv := rfl

@[simp] theorem resetBlock_errBusy : (resetBlock s).errBusy = State.reset.errBusy := rfl

@[simp] theorem resetBlock_errIll : (resetBlock s).errIll = State.reset.errIll := rfl

@[simp] theorem resetBlock_errNokey : (resetBlock s).errNokey = State.reset.errNokey := rfl

@[simp] theorem resetBlock_wreg : (resetBlock s).wreg = State.reset.wreg := rfl

@[simp] theorem resetBlock_key : (resetBlock s).key = State.reset.key := rfl

@[simp] theorem resetBlock_din : (resetBlock s).din = State.reset.din := rfl

@[simp] theorem resetBlock_dout : (resetBlock s).dout = State.reset.dout := rfl

@[simp] theorem resetBlock_sMat : (resetBlock s).sMat = State.reset.sMat := rfl

@[simp] theorem resetBlock_wRam : (resetBlock s).wRam = State.reset.wRam := rfl

@[simp] theorem resetBlock_inputs : (resetBlock s).inputs = s.inputs := rfl

@[simp] theorem resetBlock_rdata : (resetBlock s).rdata = State.reset.rdata := rfl

@[simp] theorem clearStatus_pending (v : Word) : (clearStatus v s).pending = s.pending := rfl

@[simp] theorem clearStatus_done (v : Word) : (clearStatus v s).done = (s.done && !v.getLsbD 1) := rfl

@[simp] theorem clearStatus_kv (v : Word) : (clearStatus v s).kv = s.kv := rfl

@[simp] theorem clearStatus_errBusy (v : Word) : (clearStatus v s).errBusy = (s.errBusy && !v.getLsbD 3) := rfl

@[simp] theorem clearStatus_errIll (v : Word) : (clearStatus v s).errIll = (s.errIll && !v.getLsbD 4) := rfl

@[simp] theorem clearStatus_errNokey (v : Word) : (clearStatus v s).errNokey = (s.errNokey && !v.getLsbD 5) := rfl

@[simp] theorem clearStatus_wreg (v : Word) : (clearStatus v s).wreg = s.wreg := rfl

@[simp] theorem clearStatus_key (v : Word) : (clearStatus v s).key = s.key := rfl

@[simp] theorem clearStatus_din (v : Word) : (clearStatus v s).din = s.din := rfl

@[simp] theorem clearStatus_dout (v : Word) : (clearStatus v s).dout = s.dout := rfl

@[simp] theorem clearStatus_sMat (v : Word) : (clearStatus v s).sMat = s.sMat := rfl

@[simp] theorem clearStatus_wRam (v : Word) : (clearStatus v s).wRam = s.wRam := rfl

@[simp] theorem clearStatus_inputs (v : Word) : (clearStatus v s).inputs = s.inputs := rfl

@[simp] theorem clearStatus_rdata (v : Word) : (clearStatus v s).rdata = s.rdata := rfl

@[simp] theorem reject_pending (f : ErrorFlag) : (reject f s).pending = s.pending := by cases f <;> rfl

@[simp] theorem reject_done (f : ErrorFlag) : (reject f s).done = s.done := by cases f <;> rfl

@[simp] theorem reject_kv (f : ErrorFlag) : (reject f s).kv = s.kv := by cases f <;> rfl

@[simp] theorem reject_errBusy (f : ErrorFlag) : (reject f s).errBusy = (s.errBusy || f == .busy) := by cases f <;> simp [reject, setErrorFlag]

@[simp] theorem reject_errIll (f : ErrorFlag) : (reject f s).errIll = (s.errIll || f == .ill) := by cases f <;> simp [reject, setErrorFlag]

@[simp] theorem reject_errNokey (f : ErrorFlag) : (reject f s).errNokey = (s.errNokey || f == .nokey) := by cases f <;> simp [reject, setErrorFlag]

@[simp] theorem reject_wreg (f : ErrorFlag) : (reject f s).wreg = s.wreg := by cases f <;> rfl

@[simp] theorem reject_key (f : ErrorFlag) : (reject f s).key = s.key := by cases f <;> rfl

@[simp] theorem reject_din (f : ErrorFlag) : (reject f s).din = s.din := by cases f <;> rfl

@[simp] theorem reject_dout (f : ErrorFlag) : (reject f s).dout = s.dout := by cases f <;> rfl

@[simp] theorem reject_sMat (f : ErrorFlag) : (reject f s).sMat = s.sMat := by cases f <;> rfl

@[simp] theorem reject_wRam (f : ErrorFlag) : (reject f s).wRam = s.wRam := by cases f <;> rfl

@[simp] theorem reject_inputs (f : ErrorFlag) : (reject f s).inputs = s.inputs := by cases f <;> rfl

@[simp] theorem reject_rdata (f : ErrorFlag) : (reject f s).rdata = s.rdata := by cases f <;> rfl

/-- BUSY is 1 exactly when a command is pending (10_state.md R25). -/
theorem busy_eq_true : s.busy = true ↔ s.pending ≠ none := by
  simp [State.busy, Option.isSome_iff_ne_none]

theorem busy_eq_false : s.busy = false ↔ s.pending = none := by
  simp [State.busy]

end Sys2Proof.Machine
end

