-- ==== Sys2Proof/Laws/Ops.lean ====
section
/-! SUPPORT. What each shared operation can do, said once: a CMD write, a data-register write, a transaction, a commit. -/

namespace Sys2Proof.Machine

variable {s t : State} {v : Word}

/-- A CMD write while a command is pending (60_exceptions.md R261). -/
theorem acceptCommand_busy (h : s.pending ≠ none) : acceptCommand v s = { s with errBusy := true } := by
  simp [acceptCommand, (busy_eq_true s).2 h, reject, setErrorFlag]

/-- A CMD write of an illegal word on an idle block (60_exceptions.md R261). -/
theorem acceptCommand_illegal (h : s.pending = none) (hl : legal v = false) :
    acceptCommand v s = { s with done := false, errIll := true } := by
  simp [acceptCommand, (busy_eq_false s).2 h, hl, reject, setErrorFlag]

/-- A CMD write of ARK on an idle block with KV = 0 (60_exceptions.md R261). -/
theorem acceptCommand_nokey (h : s.pending = none) (hl : legal v = true) (ho : opField v = opArk)
    (hk : s.kv = false) : acceptCommand v s = { s with done := false, errNokey := true } := by
  simp [acceptCommand, (busy_eq_false s).2 h, hl, ho, hk, reject, setErrorFlag]

/-- The CMD write that is accepted (60_exceptions.md R261). -/
theorem acceptCommand_accepted (h : s.pending = none) (hl : legal v = true)
    (hk : opField v = opArk → s.kv = true) :
    acceptCommand v s = { s with done := false, pending := some v } := by
  by_cases ho : opField v = opArk
  · simp [acceptCommand, (busy_eq_false s).2 h, hl, hk ho]
  · simp [acceptCommand, (busy_eq_false s).2 h, hl, ho]

/-- Everything a CMD write can do (60_exceptions.md R261). -/
theorem acceptCommand_cases (v : Word) (s : State) :
    (s.pending ≠ none ∧ acceptCommand v s = { s with errBusy := true }) ∨
    (s.pending = none ∧ legal v = false ∧ acceptCommand v s = { s with done := false, errIll := true }) ∨
    (s.pending = none ∧ legal v = true ∧ opField v = opArk ∧ s.kv = false ∧
      acceptCommand v s = { s with done := false, errNokey := true }) ∨
    (s.pending = none ∧ legal v = true ∧ (opField v = opArk → s.kv = true) ∧
      acceptCommand v s = { s with done := false, pending := some v }) := by
  by_cases hp : s.pending = none
  · rcases hl : legal v with _ | _
    · exact .inr (.inl ⟨hp, rfl, acceptCommand_illegal hp hl⟩)
    · by_cases ha : opField v = opArk ∧ s.kv = false
      · exact .inr (.inr (.inl ⟨hp, rfl, ha.1, ha.2, acceptCommand_nokey hp hl ha.1 ha.2⟩))
      · have hk : opField v = opArk → s.kv = true := fun ho => by
          cases hkv : s.kv with
          | true => rfl
          | false => exact absurd ⟨ho, hkv⟩ ha
        exact .inr (.inr (.inr ⟨hp, rfl, hk, acceptCommand_accepted hp hl hk⟩))
  · exact .inl ⟨hp, acceptCommand_busy hp⟩

/-- A data-register write while a command is pending (60_exceptions.md R265). -/
theorem writeUnlessBusy_busy (upd : State → State) (h : s.pending ≠ none) :
    writeUnlessBusy upd s = { s with errBusy := true } := by
  simp [writeUnlessBusy, (busy_eq_true s).2 h, reject, setErrorFlag]

/-- A data-register write on an idle block (60_exceptions.md R265). -/
theorem writeUnlessBusy_idle (upd : State → State) (h : s.pending = none) : writeUnlessBusy upd s = upd s := by
  simp [writeUnlessBusy, (busy_eq_false s).2 h]

/-- What a commit answers (60_exceptions.md R262). -/
theorem commitWith_eq_next (upd : State → State) : commitWith upd s = .next t ↔ t = complete (upd s) := by
  simp [commitWith, eq_comm]

/-- When a transaction completes, and what it leaves (20_memory.md R69; 60_exceptions.md R264). -/
theorem hostTransaction_eq_next (off size : Nat) (eff : Reg → State → State) :
    hostTransaction off size eff s = .next t ↔
      off < 64 ∧ size = 4 ∧ off % 4 = 0 ∧ t = eff (regAt (wordOffset off)) s := by
  unfold hostTransaction windowBytes
  split
  · simp; omega
  · split
    · simp; omega
    · constructor
      · intro h; cases h; exact ⟨by omega, by omega, by omega, rfl⟩
      · rintro ⟨_, _, _, rfl⟩; rfl

/-- The only fault of a transaction (60_exceptions.md R264). -/
theorem hostTransaction_eq_fault (off size : Nat) (eff : Reg → State → State) (f : Fault)
    (h : hostTransaction off size eff s = .fault f) :
    off < 64 ∧ (size ≠ 4 ∨ off % 4 ≠ 0) ∧ f = .busError (hostAddress off) := by
  unfold hostTransaction windowBytes at h
  split at h
  · cases h
  · split at h
    · cases h; exact ⟨by omega, ‹_›, rfl⟩
    · cases h

/-- The only refusal of a transaction (20_memory.md R68; log 4). -/
theorem hostTransaction_eq_refused (off size : Nat) (eff : Reg → State → State) (r : Refusal)
    (h : hostTransaction off size eff s = .refused r) : 64 ≤ off ∧ r = .outsideWindow (hostAddress off) := by
  unfold hostTransaction windowBytes at h
  split at h
  · cases h; exact ⟨by omega, rfl⟩
  · split at h <;> cases h

/-- The register at a register's own offset (20_memory.md R67). -/
@[simp] theorem regAt_offset (r : Reg) : regAt (wordOffset r.offset) = r := by
  cases r with
  | key j => fin_cases j <;> rfl
  | din j => fin_cases j <;> rfl
  | dout j => fin_cases j <;> rfl
  | _ => rfl

/-- Every aligned offset of the window is the offset of the register there (20_memory.md R67). -/
theorem offset_regAt {off : Nat} (h : off < 64) (ha : off % 4 = 0) : (regAt (wordOffset off)).offset = off := by
  obtain ⟨k, rfl⟩ : ∃ k, off = 4 * k := ⟨off / 4, by omega⟩
  have hk : k < 16 := by omega
  interval_cases k <;> rfl

theorem offset_aligned (r : Reg) : r.offset < 64 ∧ r.offset % 4 = 0 := by
  cases r <;> simp [Reg.offset] <;> omega

/-- An aligned write at a register's offset is a write to that register. -/
theorem hostWrite_offset (r : Reg) (v : Word) (s : State) : hostWrite r.offset 4 v s = .next (writeReg r v s) :=
  (hostTransaction_eq_next ..).2 ⟨(offset_aligned r).1, rfl, (offset_aligned r).2, by rw [regAt_offset]⟩

/-- Everything a host write to a register can do (20_memory.md R72; 60_exceptions.md R265, R266). -/
theorem writeReg_cases (r : Reg) (v : Word) (s : State) :
    (r = .cmd ∧ writeReg r v s = acceptCommand v s) ∨
    (r = .status ∧ writeReg r v s = clearStatus v s) ∨
    ((r = .reserved ∨ ∃ j, r = .dout j) ∧ writeReg r v s = s) ∨
    (s.pending ≠ none ∧ (r = .wreg ∨ (∃ j, r = .key j) ∨ ∃ j, r = .din j) ∧
      writeReg r v s = { s with errBusy := true }) ∨
    (s.pending = none ∧ r = .wreg ∧ writeReg r v s = { s with wreg := v }) ∨
    (s.pending = none ∧ ∃ j, r = .key j ∧ writeReg r v s = { s with key := s.key.set j v, kv := false }) ∨
    (s.pending = none ∧ ∃ j, r = .din j ∧ writeReg r v s = { s with din := s.din.set j v }) := by
  by_cases hp : s.pending = none
  · cases r <;> simp [writeReg, writeUnlessBusy_idle _ hp, hp]
  · cases r <;> simp [writeReg, writeUnlessBusy_busy _ hp, hp]

end Sys2Proof.Machine
end

