-- ==== Sys2Proof/Laws/Exec.lean ====
section
/-! SUPPORT. What each command's commit answers, once, over the shared operations; the frame of every commit. -/

namespace Sys2Proof.Machine

variable (s : State)

theorem exec_nop : exec .nop s = .next (complete s) := rfl
theorem exec_zero : exec .zero s = .next (complete (eraseData s)) := rfl
theorem exec_kexp : exec .kexp s = .next (complete (loadSchedule s)) := rfl
theorem exec_enc : exec .enc s = .next (complete (runRounds encRounds (loadSchedule s))) := rfl
theorem exec_dec : exec .dec s = .next (complete (runRounds decRounds (loadSchedule s))) := rfl
theorem exec_loads : exec .loads s = .next (complete { s with sMat := matrixOfRegs s.din }) := rfl
theorem exec_stores : exec .stores s = .next (complete { s with dout := regsOfMatrix s.sMat }) := rfl
theorem exec_subb : exec .subb s = .next (complete { s with sMat := subBytes s.sMat }) := rfl
theorem exec_shr : exec .shr s = .next (complete { s with sMat := shiftRows s.sMat }) := rfl
theorem exec_mixc : exec .mixc s = .next (complete { s with sMat := mixColumns s.sMat }) := rfl
theorem exec_isubb : exec .isubb s = .next (complete { s with sMat := invSubBytes s.sMat }) := rfl
theorem exec_ishr : exec .ishr s = .next (complete { s with sMat := invShiftRows s.sMat }) := rfl
theorem exec_imixc : exec .imixc s = .next (complete { s with sMat := invMixColumns s.sMat }) := rfl
theorem exec_rotw : exec .rotw s = .next (complete { s with wreg := rotWord s.wreg }) := rfl
theorem exec_subw : exec .subw s = .next (complete { s with wreg := subWord s.wreg }) := rfl
theorem exec_xtime : exec .xtime s = .next (complete { s with wreg := zext32 (xtime (wregLow s)) }) := rfl
theorem exec_gmul :
    exec .gmul s = .next (complete { s with wreg := zext32 (gmul (wregLow s) (wregHigh s)) }) := rfl

theorem exec_ark (rnd : BitVec 4) (h : rnd.toNat < 11) : exec (.ark rnd) s =
    .next (complete { s with sMat := addRoundKey s.sMat s.wRam ⟨rnd.toNat, h⟩ }) := by
  simp [exec, execArk, h, commitWith]

theorem exec_rcon (r : BitVec 4) (h : r.toNat < 10) : exec (.rcon r) s =
    .next (complete { s with wreg := s.wreg ^^^ rconWord ⟨r.toNat, h⟩ }) := by
  simp [exec, execRcon, h, commitWith]

/-- A term that is no command is refused by name (log 8). -/
theorem exec_ark_refused (rnd : BitVec 4) (h : ¬rnd.toNat < 11) :
    exec (.ark rnd) s = .refused (.immediateOutOfRange rnd) := by
  simp [exec, execArk, h]

theorem exec_rcon_refused (r : BitVec 4) (h : ¬r.toNat < 10) :
    exec (.rcon r) s = .refused (.immediateOutOfRange r) := by
  simp [exec, execRcon, h]

variable {s} {t : State}

/-- Every commit that answers a next state is `complete` of an update that leaves the error flags and the model's own
fields alone (60_exceptions.md R262). -/
theorem exec_eq_next {i : Instr} (h : exec i s = .next t) :
    ∃ u, t = complete u ∧ u.errBusy = s.errBusy ∧ u.errIll = s.errIll ∧ u.errNokey = s.errNokey ∧
      u.inputs = s.inputs ∧ u.rdata = s.rdata := by
  cases i with
  | ark rnd =>
    by_cases hr : rnd.toNat < 11
    · rw [exec_ark s rnd hr] at h; cases h; exact ⟨_, rfl, rfl, rfl, rfl, rfl, rfl⟩
    · rw [exec_ark_refused s rnd hr] at h; cases h
  | rcon r =>
    by_cases hr : r.toNat < 10
    · rw [exec_rcon s r hr] at h; cases h; exact ⟨_, rfl, rfl, rfl, rfl, rfl, rfl⟩
    · rw [exec_rcon_refused s r hr] at h; cases h
  | _ => cases h; exact ⟨_, rfl, rfl, rfl, rfl, rfl, rfl⟩

end Sys2Proof.Machine
end

