-- ==== Sys2Proof/Laws/Galois.lean ====
section
/-! SUPPORT. `xtime` and `gmul` are linear over XOR in each operand (40_gf_arith.md R120 to R123), which is what the
MixColumns laws rest on. -/

namespace Sys2Proof.Machine

theorem xtime_xor (a b : Byte) : xtime (a ^^^ b) = xtime a ^^^ xtime b := by
  unfold xtime
  rw [BitVec.shiftLeft_xor_distrib, BitVec.getLsbD_xor]
  have cancel (x y k : Byte) : x ^^^ y = (x ^^^ k) ^^^ (y ^^^ k) := by
    rw [show (x ^^^ k) ^^^ (y ^^^ k) = (x ^^^ y) ^^^ (k ^^^ k) by ac_rfl]; simp
  cases a.getLsbD 7 <;> cases b.getLsbD 7
  · simp
  · simp [BitVec.xor_assoc]
  · simp only [Bool.true_bne, Bool.not_false, if_true, Bool.false_eq_true, if_false,
      show (0x00 : Byte) = 0#8 from rfl, BitVec.xor_zero]
    ac_rfl
  · simpa using cancel _ _ _

@[simp] theorem xtime_zero : xtime 0 = 0 := by decide

/-- `xtime` applied n times. -/
def xtimes : Nat → Byte → Byte
  | 0, a => a
  | n + 1, a => xtime (xtimes n a)

theorem xtimes_xor (n : Nat) (a b : Byte) : xtimes n (a ^^^ b) = xtimes n a ^^^ xtimes n b := by
  induction n with
  | zero => rfl
  | succ n ih => simp only [xtimes, ih, xtime_xor]

/-- `a` shifted by `xtime` n times when the bit is set: one summand of the product. -/
def gmulTerm (a b : Byte) (n : Nat) : Byte := if b.getLsbD n then xtimes n a else 0

/-- The product as the sum of its eight summands (40_gf_arith.md R122). -/
theorem gmul_eq_sum (a b : Byte) : gmul a b =
    gmulTerm a b 0 ^^^ gmulTerm a b 1 ^^^ gmulTerm a b 2 ^^^ gmulTerm a b 3 ^^^
      gmulTerm a b 4 ^^^ gmulTerm a b 5 ^^^ gmulTerm a b 6 ^^^ gmulTerm a b 7 := by
  have turn (p : Byte) (n : Nat) :
      gmulTurn b (p, xtimes n a) n = (p ^^^ gmulTerm a b n, xtimes (n + 1) a) := by
    unfold gmulTurn gmulTerm
    cases b.getLsbD n <;> simp [xtimes]
  have first : gmulTurn b (0x00, a) 0 = (gmulTerm a b 0, xtimes 1 a) := by
    have h := turn 0x00 0
    simpa [xtimes] using h
  simp only [gmul, List.foldl_cons, List.foldl_nil, first, turn]

theorem gmulTerm_xor_left (a a' b : Byte) (n : Nat) :
    gmulTerm (a ^^^ a') b n = gmulTerm a b n ^^^ gmulTerm a' b n := by
  unfold gmulTerm
  split <;> simp [xtimes_xor]

theorem gmulTerm_xor_right (a b b' : Byte) (n : Nat) :
    gmulTerm a (b ^^^ b') n = gmulTerm a b n ^^^ gmulTerm a b' n := by
  unfold gmulTerm
  rw [BitVec.getLsbD_xor]
  cases b.getLsbD n <;> cases b'.getLsbD n <;> simp

theorem gmul_xor_left (a a' b : Byte) : gmul (a ^^^ a') b = gmul a b ^^^ gmul a' b := by
  simp only [gmul_eq_sum, gmulTerm_xor_left]
  ac_rfl

theorem gmul_xor_right (a b b' : Byte) : gmul a (b ^^^ b') = gmul a b ^^^ gmul a b' := by
  simp only [gmul_eq_sum, gmulTerm_xor_right]
  ac_rfl

/-- A property of bytes that XOR keeps holds of every byte once it holds of 0 and of the eight single bits. -/
theorem byte_xor_induction {P : Byte → Prop} (zero : P 0) (xor : ∀ a b, P a → P b → P (a ^^^ b))
    (bit : ∀ i : Fin 8, P (1#8 <<< i.val)) (a : Byte) : P a := by
  have part (i : Fin 8) : P (if a.getLsbD i then 1#8 <<< i.val else 0) := by
    split
    · exact bit i
    · exact zero
  have sum : ∀ a : Byte, a =
      (if a.getLsbD 0 then 1#8 <<< 0 else 0) ^^^ (if a.getLsbD 1 then 1#8 <<< 1 else 0) ^^^
      (if a.getLsbD 2 then 1#8 <<< 2 else 0) ^^^ (if a.getLsbD 3 then 1#8 <<< 3 else 0) ^^^
      (if a.getLsbD 4 then 1#8 <<< 4 else 0) ^^^ (if a.getLsbD 5 then 1#8 <<< 5 else 0) ^^^
      (if a.getLsbD 6 then 1#8 <<< 6 else 0) ^^^ (if a.getLsbD 7 then 1#8 <<< 7 else 0) := by
    decide
  rw [sum a]
  exact xor _ _ (xor _ _ (xor _ _ (xor _ _ (xor _ _ (xor _ _ (xor _ _ (part 0) (part 1)) (part 2)) (part 3)) (part 4))
    (part 5)) (part 6)) (part 7)

end Sys2Proof.Machine
end

