-- ==== Sys2Proof/Laws/PerInstr.lean ====
section
/-! SUPPORT. A statement about every command as syntax, one lemma per constructor of `Instr`. -/

namespace Sys2Proof.Laws.EncodedFields

/-- The fields of a command's word are its opcode, its immediate, and zeros (30_encoding.md R90, R94). -/
abbrev Statement (i : Instr) : Prop :=
  opField (encode i) = i.opcode ∧ immField (encode i) = i.immediate ∧
    rsv0Field (encode i) = 0 ∧ rsv1Field (encode i) = 0

theorem nop : Statement .nop := by decide
theorem zero : Statement .zero := by decide
theorem kexp : Statement .kexp := by decide
theorem enc : Statement .enc := by decide
theorem dec : Statement .dec := by decide
theorem loads : Statement .loads := by decide
theorem stores : Statement .stores := by decide
theorem subb : Statement .subb := by decide
theorem shr : Statement .shr := by decide
theorem mixc : Statement .mixc := by decide
theorem ark (rnd : BitVec 4) : Statement (.ark rnd) := by
  revert rnd; decide
theorem isubb : Statement .isubb := by decide
theorem ishr : Statement .ishr := by decide
theorem imixc : Statement .imixc := by decide
theorem rotw : Statement .rotw := by decide
theorem subw : Statement .subw := by decide
theorem rcon (r : BitVec 4) : Statement (.rcon r) := by
  revert r; decide
theorem xtime : Statement .xtime := by decide
theorem gmul : Statement .gmul := by decide

end Sys2Proof.Laws.EncodedFields
end

