-- ==== Sys2Proof/Laws/Schedule.lean ====
section
/-! SUPPORT. The recurrence of the schedule words that ExpandKey is made of (42_key_expander.md R155). -/

namespace Sys2Proof.Machine

/-- Word k+4 of four words followed by the schedule from them on is word k XOR `temp` of word k+3. -/
theorem scheduleFrom_recurrence (n i : Nat) (w4 w3 w2 w1 : Word) (k : Nat) (hk : k < n) :
    (w4 :: w3 :: w2 :: w1 :: scheduleFrom n i w4 w3 w2 w1)[k + 4]? =
      (do
        let a ← (w4 :: w3 :: w2 :: w1 :: scheduleFrom n i w4 w3 w2 w1)[k]?
        let b ← (w4 :: w3 :: w2 :: w1 :: scheduleFrom n i w4 w3 w2 w1)[k + 3]?
        return a ^^^ scheduleTemp (i + k) b) := by
  induction n generalizing i w4 w3 w2 w1 k with
  | zero => omega
  | succ n ih =>
    cases k with
    | zero => simp [scheduleFrom]
    | succ k =>
      have h := ih (i + 1) w3 w2 w1 (w4 ^^^ scheduleTemp i w1) k (by omega)
      rw [show i + 1 + k = i + (k + 1) by omega] at h
      simpa [scheduleFrom] using h

end Sys2Proof.Machine
end

