-- ==== Sys2Proof/Laws/Step.lean ====
section
/-! SUPPORT. What a step can do, said once: one of four agents' steps. -/

namespace Sys2Proof.Machine

variable {s t : State}

/-- Everything a step that answers a next state can be (00_scope.md R11; 20_memory.md R75). -/
theorem step_cases (h : step s = .next t) :
    (∃ off, nextEvent s = .memRead off 4 ∧ off < 64 ∧ off % 4 = 0 ∧
      t = { takeInput s with rdata := some (readReg (regAt (wordOffset off)) (takeInput s)) }) ∨
    (∃ off v, nextEvent s = .memWrite off 4 v ∧ off < 64 ∧ off % 4 = 0 ∧
      t = writeReg (regAt (wordOffset off)) v (takeInput s)) ∨
    (nextEvent s = .engine ∧ s.pending = none ∧ t = takeInput s) ∨
    (nextEvent s = .engine ∧ ∃ v i, s.pending = some v ∧ decode v = .ok i ∧ exec i (takeInput s) = .next t) ∨
    (nextEvent s = .reset ∧ t = resetBlock (takeInput s)) := by
  unfold step takeEvent at h
  split at h
  · rename_i off size he
    obtain ⟨h1, rfl, h3, h4⟩ := (hostTransaction_eq_next ..).1 h
    exact .inl ⟨off, he, h1, h3, h4⟩
  · rename_i off size v he
    obtain ⟨h1, rfl, h3, h4⟩ := (hostTransaction_eq_next ..).1 h
    exact .inr (.inl ⟨off, v, he, h1, h3, h4⟩)
  · rename_i he
    unfold engineTurn commitPending at h
    split at h
    · rename_i v hv
      split at h
      · rename_i i hi
        exact .inr (.inr (.inr (.inl ⟨he, v, i, by simpa using hv, hi, h⟩)))
      · cases h
    · rename_i hn
      cases h
      exact .inr (.inr (.inl ⟨he, by simpa using hn, rfl⟩))
  · rename_i he
    cases h
    exact .inr (.inr (.inr (.inr ⟨he, rfl⟩)))

end Sys2Proof.Machine
end

