-- ==== Sys2Proof/Tests/Slice0.lean ====
section
/-! SUPPORT. Tests with results taken from spec/ (the word encodings of 30_encoding.md R94, the vectors of
95_test_vectors.md), and for every statement a named witness that meets its hypotheses. -/

namespace Sys2Proof.Tests

open Sys2Proof Sys2Proof.Machine Sys2Proof.Claims

/-! ### Well-formedness -/

/-- R92: rnd is legal in 0..10, r in 0..9. -/
theorem test_wellFormed_refuses_ark_11 : (Instr.ark 11).wellFormed = false := by decide
theorem test_wellFormed_refuses_ark_15 : (Instr.ark 15).wellFormed = false := by decide
theorem test_wellFormed_refuses_rcon_10 : (Instr.rcon 10).wellFormed = false := by decide
theorem test_wellFormed_takes_ark_10 : (Instr.ark 10).wellFormed = true := by decide
theorem test_wellFormed_takes_rcon_9 : (Instr.rcon 9).wellFormed = true := by decide

/-! ### Decoding: each word is RSV1 (20 bits), IMM (4), RSV0 (2), OP (6) of R90, with the OP of R94 -/

theorem test_decode_nop : decode ((0#20 ++ 0b0000#4 ++ 0b00#2 ++ 0b000000#6 : BitVec 32)) = .ok .nop := by decide
theorem test_decode_zero : decode ((0#20 ++ 0b0000#4 ++ 0b00#2 ++ 0b000001#6 : BitVec 32)) = .ok .zero := by decide
theorem test_decode_kexp : decode ((0#20 ++ 0b0000#4 ++ 0b00#2 ++ 0b000010#6 : BitVec 32)) = .ok .kexp := by decide
theorem test_decode_enc : decode ((0#20 ++ 0b0000#4 ++ 0b00#2 ++ 0b000011#6 : BitVec 32)) = .ok .enc := by decide
theorem test_decode_dec : decode ((0#20 ++ 0b0000#4 ++ 0b00#2 ++ 0b000100#6 : BitVec 32)) = .ok .dec := by decide
theorem test_decode_loads : decode ((0#20 ++ 0b0000#4 ++ 0b00#2 ++ 0b001000#6 : BitVec 32)) = .ok .loads := by decide
theorem test_decode_stores : decode ((0#20 ++ 0b0000#4 ++ 0b00#2 ++ 0b001001#6 : BitVec 32)) = .ok .stores := by decide
theorem test_decode_subb : decode ((0#20 ++ 0b0000#4 ++ 0b00#2 ++ 0b010000#6 : BitVec 32)) = .ok .subb := by decide
theorem test_decode_shr : decode ((0#20 ++ 0b0000#4 ++ 0b00#2 ++ 0b010001#6 : BitVec 32)) = .ok .shr := by decide
theorem test_decode_mixc : decode ((0#20 ++ 0b0000#4 ++ 0b00#2 ++ 0b010010#6 : BitVec 32)) = .ok .mixc := by decide
theorem test_decode_ark : decode ((0#20 ++ 0b1010#4 ++ 0b00#2 ++ 0b010011#6 : BitVec 32)) = .ok (.ark 10) := by decide
theorem test_decode_isubb : decode ((0#20 ++ 0b0000#4 ++ 0b00#2 ++ 0b011000#6 : BitVec 32)) = .ok .isubb := by decide
theorem test_decode_ishr : decode ((0#20 ++ 0b0000#4 ++ 0b00#2 ++ 0b011001#6 : BitVec 32)) = .ok .ishr := by decide
theorem test_decode_imixc : decode ((0#20 ++ 0b0000#4 ++ 0b00#2 ++ 0b011010#6 : BitVec 32)) = .ok .imixc := by decide
theorem test_decode_rotw : decode ((0#20 ++ 0b0000#4 ++ 0b00#2 ++ 0b100000#6 : BitVec 32)) = .ok .rotw := by decide
theorem test_decode_subw : decode ((0#20 ++ 0b0000#4 ++ 0b00#2 ++ 0b100001#6 : BitVec 32)) = .ok .subw := by decide
theorem test_decode_rcon : decode ((0#20 ++ 0b1001#4 ++ 0b00#2 ++ 0b100010#6 : BitVec 32)) = .ok (.rcon 9) := by decide
theorem test_decode_xtime : decode ((0#20 ++ 0b0000#4 ++ 0b00#2 ++ 0b101000#6 : BitVec 32)) = .ok .xtime := by decide
theorem test_decode_gmul : decode ((0#20 ++ 0b0000#4 ++ 0b00#2 ++ 0b101001#6 : BitVec 32)) = .ok .gmul := by decide

/-- R99: the encodings of `ARK 5` and `RCON 9`. -/
theorem test_encode_ark_5 : encode (.ark 5) = 0x00000513 := by decide
theorem test_encode_rcon_9 : encode (.rcon 9) = 0x00000922 := by decide

/-- R96: the illegal words. -/
theorem test_decode_unassigned_05 : decode 0x00000005 = .error (.unassignedOpcode 0x05) := by decide
theorem test_decode_unassigned_3F : decode 0x0000003F = .error (.unassignedOpcode 0x3F) := by decide
theorem test_decode_rsv0 : decode 0x00000040 = .error .reservedBitSet := by decide
theorem test_decode_rsv1 : decode 0x80000000 = .error .reservedBitSet := by decide
theorem test_decode_ark_11 : decode 0x00000B13 = .error .roundOutOfRange := by decide
theorem test_decode_rcon_10 : decode 0x00000A22 = .error .rconOutOfRange := by decide
theorem test_decode_enc_imm : decode 0x00000103 = .error (.immediateNotZero 0x03) := by decide

theorem test_decodeTableWord_ark : decodeTableWord 32 0x00000513 = some (.ark 5) := by decide
theorem test_decodeTableWord_illegal : decodeTableWord 32 0x00000F13 = none := by decide

/-! ### States the tests start from -/

/-- The key of FIPS-197 Appendix A.1 as register words (95_test_vectors.md, KEYA). -/
def keyA : Quad Word := ⟨0x16157E2B, 0xA6D2AE28, 0x8815F7AB, 0x3C4FCF09⟩

/-- After reset, with KEYA expanded: KV = 1 (V-KEY-1). -/
def keyed : State := { State.reset with key := keyA, wRam := expandKey keyA, kv := true }

/-- After reset, with S0f in S (V-ST-1). -/
def withS0f : State := { State.reset with sMat := s0f }

/-- After reset, with a word in WREG. -/
def withWreg (v : Word) : State := { State.reset with wreg := v }

/-- After reset, with a command word pending. -/
def busyWith (v : Word) : State := { State.reset with pending := some v }

/-- A state with the agents' next steps. -/
def withInputs (s : State) (es : List Event) : State := { s with inputs := es }

/-- One part of the state an outcome holds. -/
def partOf {α : Type} (f : State → α) : Outcome State Fault Refusal → Option α
  | .next s => some (f s)
  | .fault _ => none
  | .refused _ => none

/-! ### One command each, on vectors of 95_test_vectors.md -/

/-- V-SYS-1: STATUS 0x06 before, 0x06 after the commit. -/
theorem test_nop : partOf statusWord (exec .nop { keyed with pending := some 0 }) = some 0x06 := by decide +kernel
/-- V-SYS-2: with ERR_ILL set before, STATUS = 0x12 after. -/
theorem test_zero_status : partOf statusWord (exec .zero { keyed with errIll := true }) = some 0x12 := by decide +kernel
theorem test_zero_key : partOf (·.key.a0) (exec .zero keyed) = some 0 := by decide +kernel
/-- V-KEY-3. -/
theorem test_kexp : partOf (fun s => (s.wRam[7], s.wRam[43]))
    (exec .kexp { State.reset with key := ⟨0x74616854, 0x796D2073, 0x6E754B20, 0x75462067⟩ }) =
    some (0x93A279D6, 0x266F313B) := by decide +kernel
/-- V-DRV-1. -/
theorem test_enc : partOf (·.dout) (exec .enc { keyed with
    din := ⟨0xA8F64332, 0x8D305A88, 0xA2983131, 0x340737E0⟩ }) =
    some ⟨0x1D842539, 0xFB09DC02, 0x978511DC, 0x320B6A19⟩ := by decide +kernel
/-- V-DRV-2. -/
theorem test_dec : partOf (·.dout) (exec .dec { State.reset with
    key := ⟨0x03020100, 0x07060504, 0x0B0A0908, 0x0F0E0D0C⟩
    din := ⟨0xD8E0C469, 0x30047B6A, 0x80B7CDD8, 0x5AC5B470⟩ }) =
    some ⟨0x33221100, 0x77665544, 0xBBAA9988, 0xFFEEDDCC⟩ := by decide +kernel
/-- V-SER-1: S[2][1] and S[3][0]. -/
theorem test_loads : partOf (fun s => (cell s.sMat 2 1, cell s.sMat 3 0)) (exec .loads { State.reset with
    din := ⟨0xA8F64332, 0x8D305A88, 0xA2983131, 0x340737E0⟩ }) = some (0x30, 0xa8) := by decide
/-- V-SER-2. -/
theorem test_stores : partOf (·.dout) (exec .stores withS0f) =
    some ⟨0x03020100, 0x07060504, 0x0B0A0908, 0x0F0E0D0C⟩ := by decide
/-- V-ST-1, V-ST-4. -/
theorem test_subb : partOf (fun s => regsOfMatrix s.sMat) (exec .subb withS0f) =
    some ⟨0x7B777C63, 0xC56F6BF2, 0x2B670130, 0x76ABD7FE⟩ := by decide
theorem test_shr : partOf (fun s => regsOfMatrix s.sMat) (exec .shr withS0f) =
    some ⟨0x0F0A0500, 0x030E0904, 0x07020D08, 0x0B06010C⟩ := by decide
theorem test_mixc : partOf (fun s => regsOfMatrix s.sMat) (exec .mixc withS0f) =
    some ⟨0x05000702, 0x01040306, 0x0D080F0A, 0x090C0B0E⟩ := by decide
theorem test_isubb : partOf (fun s => regsOfMatrix s.sMat) (exec .isubb withS0f) =
    some ⟨0xD56A0952, 0x38A53630, 0x9EA340BF, 0xFBD7F381⟩ := by decide
theorem test_ishr : partOf (fun s => regsOfMatrix s.sMat) (exec .ishr withS0f) =
    some ⟨0x070A0D00, 0x0B0E0104, 0x0F020508, 0x0306090C⟩ := by decide
theorem test_imixc : partOf (fun s => regsOfMatrix s.sMat) (exec .imixc withS0f) =
    some ⟨0x0D080F0A, 0x090C0B0E, 0x05000702, 0x01040306⟩ := by decide
/-- V-ST-3: ARK 10 on S0f. -/
theorem test_ark : partOf (·.sMat) (exec (.ark 10) { keyed with sMat := s0f }) =
    some (stateOfBytes #v[0xd0, 0x15, 0xfb, 0xab, 0xcd, 0xeb, 0x23, 0x8e, 0xe9, 0x36, 0x06, 0xc3, 0xba, 0x6e, 0x02, 0xa9]) := by
  decide +kernel
/-- V-KEY-4, V-SB-2. -/
theorem test_rotw : partOf (·.wreg) (exec .rotw (withWreg 0x12345678)) = some 0x78123456 := by decide
theorem test_subw : partOf (·.wreg) (exec .subw (withWreg 0xFF805300)) = some 0x16CDED63 := by decide
theorem test_rcon : partOf (·.wreg) (exec (.rcon 8) (withWreg 0x0000001B)) = some 0x00000000 := by decide
/-- V-GF-1, V-GF-2. -/
theorem test_xtime : partOf (·.wreg) (exec .xtime (withWreg 0x000000AE)) = some 0x00000047 := by decide
theorem test_gmul : partOf (·.wreg) (exec .gmul (withWreg 0xFFFF1357)) = some 0x000000FE := by decide

/-! ### The window and the step -/

/-- V-ERR-1: `MemRead(AES_BASE+0x02, 4)`, `MemWrite(AES_BASE+0x00, 1, 0x03)`: BusError. -/
theorem test_misaligned_read : hostRead 0x02 4 State.reset = .fault (.busError (hostAddress 0x02)) := rfl
theorem test_byte_write : hostWrite 0x00 1 0x03 State.reset = .fault (.busError (hostAddress 0x00)) := rfl
/-- P7: ARK 0 after reset gives STATUS = 0x20, then ARK 11 gives 0x30, then CLR gives 0. -/
theorem test_ark_without_key : partOf statusWord (hostWrite 0x00 4 0x00000013 State.reset) = some 0x20 := by decide
theorem test_illegal_after_nokey :
    partOf statusWord (hostWrite 0x00 4 0x00000B13 { State.reset with errNokey := true }) = some 0x30 := by decide
theorem test_clr : partOf statusWord (hostWrite 0x04 4 0x0000003A { State.reset with errNokey := true, errIll := true }) =
    some 0x00 := by decide
/-- V-ERR-3: a KEY write clears KV even when it writes the same value. -/
theorem test_key_write_clears_kv : partOf (·.kv) (hostWrite 0x1C 4 0x3C4FCF09 keyed) = some false := by decide +kernel
/-- A word placed for the next step is run by it, as the first command after reset (log 15). -/
theorem test_withFetchWord : partOf (·.done) (step (State.reset.withFetchWord 32 0x00000000)) = some true := by decide
theorem test_step_rotw : partOf (·.wreg) (step ((withWreg 0x3C4FCF09).withFetchWord 32 0x00000020)) = some 0x093C4FCF := by
  decide

/-! ### Witnesses: states and operands that meet the hypotheses of each statement -/

/-- A state in which every clause of the invariant says something: ARK 10 pending, KV = 1. -/
theorem witness_good : ({ keyed with pending := some 0x00000A13 } : State).Good where
  pendingLegal := by intro v h; cases h; decide
  pendingArkHasKey := by intro v _ _; rfl
  doneClearWhileBusy := by intro _; rfl
  scheduleOfKey := by intro _; rfl

theorem keyed_good : keyed.Good where
  pendingLegal := by intro v h; cases h
  pendingArkHasKey := by intro v h; cases h
  doneClearWhileBusy := by intro _; rfl
  scheduleOfKey := by intro _; rfl

theorem busyWith_good (v : Word) (h : legal v = true) (ha : opField v ≠ opArk) : (busyWith v).Good where
  pendingLegal := by intro w hw; cases hw; exact h
  pendingArkHasKey := by intro w hw hw'; cases hw; exact absurd hw' ha
  doneClearWhileBusy := by intro _; rfl
  scheduleOfKey := by intro h; cases h

theorem witness_OpcodeMapWordsDecode :
    (10#4).toNat ≤ 10 ∧ (0#4).toNat ≤ 10 ∧ (9#4).toNat ≤ 9 ∧ (0x0000003F#32).toNat % 64 ∉ listedOpcodes := by decide

theorem witness_IllegalWordsAreRejected :
    legal 0x00000005 = false ∧ State.reset.pending = none ∧ (busyWith 0).pending ≠ none ∧
    (opField 0x0000003F).toNat ∉ listedOpcodes ∧ rsv0Field 0x00000080 ≠ 0 ∧ rsv1Field 0x80000000 ≠ 0 ∧
    (opField 0x00000B13 = 0x13 ∧ (immField 0x00000B13).toNat > 10) ∧
    (opField 0x00000A22 = 0x22 ∧ (immField 0x00000A22).toNat > 9) ∧
    (opField 0x00000100 ≠ 0x13 ∧ opField 0x00000100 ≠ 0x22 ∧ immField 0x00000100 ≠ 0) := by decide

theorem witness_StepRunsThePendingCommand :
    (busyWith 0x00000028).pending = some 0x00000028 ∧ decode 0x00000028 = .ok .xtime ∧
      nextEvent (busyWith 0x00000028) = .engine := by decide

theorem witness_StepIsOneAgentsStep :
    (withInputs State.reset [.memRead 0x3C 4]).inputs = .memRead 0x3C 4 :: [] ∧
    (withInputs State.reset [.memWrite 0x3C 4 1]).inputs = .memWrite 0x3C 4 1 :: [] ∧
    (State.reset.pending = none ∧ nextEvent State.reset = .engine) ∧ State.reset.inputs = [] := by decide

theorem witness_CommandWriteThenCommitRunsTheCommand :
    (Instr.ark 10).wellFormed = true ∧ keyed.pending = none ∧ ((Instr.ark 10).opcode = 0x13 → keyed.kv = true) :=
  ⟨by decide, rfl, fun _ => rfl⟩

theorem witness_ResetEventResetsEverything :
    (withInputs (busyWith 0x03) [.reset, .engine]).inputs = .reset :: [.engine] := rfl

theorem witness_BusErrorExactlyOnWrongSizeOrAlignment :
    (63 < 64 ∧ (4 ≠ 4 ∨ (Config.aesBase + 63) % 4 ≠ 0)) ∧ (60 < 64 ∧ (8 ≠ 4 ∨ (Config.aesBase + 60) % 4 ≠ 0)) ∧
    (60 < 64 ∧ 4 = 4 ∧ (Config.aesBase + 60) % 4 = 0) := by
  unfold Config.aesBase
  omega

theorem witness_DataRegisterWrites :
    ((busyWith 0).pending ≠ none ∧ ((0x2C : Nat) = 0x08 ∨ (∃ j : Fin 4, 0x2C = 0x10 + 4 * j.val) ∨ ∃ j : Fin 4, 0x2C = 0x20 + 4 * j.val)) ∧
    ((busyWith 0).pending ≠ none ∧ ((0x10 : Nat) = 0x08 ∨ (∃ j : Fin 4, 0x10 = 0x10 + 4 * j.val) ∨ ∃ j : Fin 4, 0x10 = 0x20 + 4 * j.val)) ∧
    State.reset.pending = none := by decide

theorem witness_StatusWriteClearsOnes : (busyWith 0x03).Good ∧ (busyWith 0x03).pending ≠ none :=
  ⟨busyWith_good 0x03 (by decide) (by decide), by decide⟩

theorem witness_CommandAcceptance :
    (busyWith 0).pending ≠ none ∧ (State.reset.pending = none ∧ legal 0x00000F13 = false) ∧
    (State.reset.pending = none ∧ legal 0x00000A13 = true ∧ opField 0x00000A13 = 0x13 ∧ State.reset.kv = false) ∧
    (State.reset.pending = none ∧ legal 0x00000029 = true ∧ (opField 0x00000029 = 0x13 → State.reset.kv = true)) := by decide

theorem witness_CommandAcceptance_ark : keyed.pending = none ∧ legal 0x00000A13 = true ∧ keyed.kv = true :=
  ⟨rfl, by decide, rfl⟩

theorem witness_OneTransactionSetsAtMostOneFlag :
    (∃ t, hostWrite 0x00 4 0xFFFFFFFF { busyWith 0 with errIll := true, errNokey := true } = .next t ∧ t.errIll = true ∧ t.errNokey = true ∧
      newlySet { busyWith 0 with errIll := true, errNokey := true } t = 1) ∧
    (∃ t, hostWrite 0x00 4 0x13 { State.reset with errBusy := true } = .next t ∧ t.errBusy = true) :=
  ⟨⟨_, rfl, rfl, rfl, by decide⟩, _, rfl, rfl⟩

/-- ERR_BUSY, ERR_ILL and ERR_NOKEY set, at the first and the last offset of the range. -/
theorem witness_ErrorFlagsAreSticky_set :
    (∃ t, step (withInputs (busyWith 0) [.memWrite 0x00 4 0]) = .next t ∧ t.errBusy = true) ∧
    (∃ t, step (withInputs (busyWith 0) [.memWrite 0x2C 4 0]) = .next t ∧ t.errBusy = true) ∧
    (∃ t, step (withInputs State.reset [.memWrite 0x00 4 0x05]) = .next t ∧ t.errIll = true) ∧
    (∃ t, step (withInputs State.reset [.memWrite 0x00 4 0x13]) = .next t ∧ t.errNokey = true) :=
  ⟨⟨_, rfl, rfl⟩, ⟨_, rfl, rfl⟩, ⟨_, rfl, rfl⟩, _, rfl, rfl⟩

/-- Each flag cleared by the host and by reset; and the two CMD writes compared. -/
theorem witness_ErrorFlagsAreSticky_cleared :
    (∃ t, step (withInputs { State.reset with errBusy := true, errIll := true, errNokey := true } [.memWrite 0x04 4 0x38]) = .next t ∧
      errorFlags t = [false, false, false]) ∧
    (∃ t, step (withInputs { State.reset with errBusy := true, errIll := true, errNokey := true } [.reset]) = .next t ∧
      errorFlags t = [false, false, false]) ∧
    (∃ t t', hostWrite 0x00 4 0x00 State.reset = .next t ∧
      hostWrite 0x00 4 0x00 { State.reset with errBusy := true, errIll := true, errNokey := false } = .next t') :=
  ⟨⟨_, rfl, rfl⟩, ⟨_, rfl, rfl⟩, _, _, rfl, rfl⟩

theorem witness_KeyValidChanges :
    (∃ t, step (busyWith 0x02) = .next t ∧ (busyWith 0x02).kv = false ∧ t.kv = true) ∧
    (∃ t, step (withInputs keyed [.reset]) = .next t ∧ (withInputs keyed [.reset]).kv = true ∧ t.kv = false) ∧
    (∃ t, step { keyed with pending := some 0x01 } = .next t ∧ t.kv = false) ∧
    (∃ t, step (withInputs keyed [.memWrite 0x10 4 0]) = .next t ∧ t.kv = false) ∧
    (∃ t, step (withInputs keyed [.memWrite 0x1C 4 0]) = .next t ∧ t.kv = false) ∧
    ((10#4).toNat ≤ 10 ∧ State.reset.pending = none ∧ State.reset.kv = false) ∧
    (∃ t, keyed.Good ∧ step keyed = .next t ∧ t.kv = true) :=
  ⟨⟨_, rfl, rfl, rfl⟩, ⟨_, rfl, rfl, rfl⟩, ⟨_, rfl, rfl⟩, ⟨_, rfl, rfl⟩, ⟨_, rfl, rfl⟩,
    ⟨by decide, rfl, rfl⟩, _, keyed_good, rfl, rfl⟩

theorem witness_DoneChanges :
    (∃ t, step (busyWith 0x00) = .next t ∧ (busyWith 0x00).done = false ∧ t.done = true ∧
      nextEvent (busyWith 0x00) = .engine ∧ (busyWith 0x00).pending ≠ none) ∧
    (∃ t, step (withInputs { State.reset with done := true } [.memWrite 0x00 4 0x05]) = .next t ∧ t.done = false) ∧
    (∃ t, step (withInputs { State.reset with done := true } [.memWrite 0x04 4 0x02]) = .next t ∧
      (0x02#32).getLsbD 1 = true ∧ t.done = false) ∧
    (∃ t, step (withInputs { State.reset with done := true } [.reset]) = .next t ∧ t.done = false) ∧
    (∃ t, step (withInputs (busyWith 0x00) [.memWrite 0x00 4 0]) = .next t) :=
  ⟨⟨_, rfl, rfl, rfl, rfl, by decide⟩, ⟨_, rfl, rfl⟩, ⟨_, rfl, by decide, rfl⟩, ⟨_, rfl, rfl⟩, _, rfl⟩

theorem witness_KeyAndDinChangeOnlyByHostZeroReset :
    (∃ t, step (withInputs State.reset [.memWrite 0x10 4 1]) = .next t ∧ t.key ≠ State.reset.key) ∧
    (∃ t, step (withInputs State.reset [.memWrite 0x2C 4 1]) = .next t ∧ t.din ≠ State.reset.din) ∧
    (∃ t, step { busyWith 0x01 with key := keyA, din := keyA } = .next t ∧ t.key ≠ keyA ∧ t.din ≠ keyA) ∧
    (∃ t, step { withInputs State.reset [.reset] with key := keyA, din := keyA } = .next t ∧ t.key ≠ keyA ∧ t.din ≠ keyA) :=
  ⟨⟨_, rfl, by decide⟩, ⟨_, rfl, by decide⟩, ⟨_, rfl, by decide, by decide⟩, _, rfl, by decide, by decide⟩

theorem witness_InputsLockedAndOutputsStaleWhileBusy :
    (busyWith 0x03).pending ≠ none ∧ nextEvent (withInputs (busyWith 0x03) [.memWrite 0x20 4 1]) ≠ .engine ∧
    nextEvent (withInputs (busyWith 0x03) [.memWrite 0x20 4 1]) ≠ .reset ∧
    ∃ t, step (withInputs (busyWith 0x03) [.memWrite 0x20 4 1]) = .next t :=
  ⟨by decide, by decide, by decide, _, rfl⟩

/-- A good state that steps: ARK 10 pending and committed. -/
theorem witness_EveryStepKeepsGood :
    ({ keyed with pending := some 0x00000A13 } : State).Good ∧
      ∃ t, step { keyed with pending := some 0x00000A13 } = .next t :=
  ⟨witness_good, _, rfl⟩

theorem withInputs_good {s : State} (h : s.Good) (es : List Event) : (withInputs s es).Good :=
  ⟨h.pendingLegal, h.pendingArkHasKey, h.doneClearWhileBusy, h.scheduleOfKey⟩

theorem witness_GoodStatesNeverGetStuck :
    ((withInputs keyed [.memRead 0x02 4]).Good ∧
      step (withInputs keyed [.memRead 0x02 4]) = .fault (.busError (hostAddress 0x02))) ∧
    ((withInputs keyed [.memWrite 0x40 4 0]).Good ∧
      step (withInputs keyed [.memWrite 0x40 4 0]) = .refused (.outsideWindow (hostAddress 0x40))) :=
  ⟨⟨withInputs_good keyed_good _, rfl⟩, withInputs_good keyed_good _, rfl⟩

theorem witness_CommitNeverFails : (Instr.rcon 9).wellFormed = true ∧ (Instr.rcon 10).wellFormed = false := by decide

theorem witness_PendingCommandCommitsAfterTheScheduledSteps :
    ∃ t, Host.Core.run Sys2Proof.core ((withInputs State.reset [.memWrite 0x00 4 0x00000020]).inputs.length + 1)
      (withInputs State.reset [.memWrite 0x00 4 0x00000020]) = .next t :=
  ⟨_, rfl⟩

theorem witness_CommandsWriteOnlyTheirRegisters :
    (∃ t, exec .zero keyed = .next t) ∧ (∃ t, exec .stores withS0f = .next t) ∧ Part.key ∉ writesOf .stores ∧
      partRead (.key 3) = some Part.key :=
  ⟨⟨_, rfl⟩, ⟨_, rfl⟩, by decide, rfl⟩

theorem witness_CommandsDependOnlyOnWhatTheyRead :
    ∃ t t', exec .kexp keyed = .next t ∧ exec .kexp { State.reset with key := keyA, wreg := 5 } = .next t' ∧
      (∀ p ∈ readsOf .kexp, sameAt p keyed { State.reset with key := keyA, wreg := 5 }) ∧ Part.w ∈ writesOf .kexp :=
  ⟨_, _, rfl, rfl, by intro p hp; simp only [readsOf, List.mem_singleton] at hp; subst hp; rfl, by decide⟩

/-- The pair {53}, {CA} of V-GF-2. -/
theorem witness_SubstitutionTables : gmul 0x53 0xCA = 0x01 ∧ (0xFF : Byte) ≠ 0x00 := by decide
theorem witness_GmulFieldLaws : gmul 0xFF 0x00 = 0x00 := by decide
theorem witness_ExpandKeyRecurrence :
    ((4 ≤ 43 ∧ 43 < 44) ∧ 43 % 4 ≠ 0) ∧ ((4 ≤ 4 ∧ 4 < 44) ∧ 4 % 4 = 0) ∧ ((4 ≤ 40 ∧ 40 < 44) ∧ 40 % 4 = 0) := by decide

/-- One term of each command, ARK and RCON at the last index. -/
def someCommands : List Instr :=
  [.nop, .zero, .kexp, .enc, .dec, .loads, .stores, .subb, .shr, .mixc, .ark 10] ++
  [.isubb, .ishr, .imixc, .rotw, .subw, .rcon 9, .xtime, .gmul]

/-- The hypotheses of `CommandRule`, which the fifteen statements about commands share: a busy state; an idle state with a word out
of range, with RSV0 and with RSV1 set; an idle state in which ARK is accepted. -/
theorem witness_CommandRule :
    (∀ i ∈ someCommands, opField (encode i) = i.opcode ∧
      (opField (encode i ||| 0xF00) = i.opcode ∧ (immField (encode i ||| 0xF00)).toNat > 10) ∧
      (opField (encode i ||| 0x40) = i.opcode ∧ rsv0Field (encode i ||| 0x40) ≠ 0) ∧
      (opField (encode i ||| 0x1000) = i.opcode ∧ rsv1Field (encode i ||| 0x1000) ≠ 0)) ∧
    (busyWith 0).pending ≠ none ∧ keyed.pending = none ∧ keyed.kv = true :=
  ⟨by decide, by decide, rfl, rfl⟩

theorem witness_NopChangesOnlyTheCompletionFlags : statusWord { State.reset with done := true } = 0x00000002 := by decide

theorem witness_ZeroErasesKeyAndData :
    errorFlags keyed = [false, false, false] ∧ (10#4).toNat ≤ 10 ∧ (Instr.kexp = .kexp ∨ Instr.kexp = .enc ∨ Instr.kexp = .dec) :=
  ⟨rfl, by decide, .inl rfl⟩

theorem witness_KexpExpandsTheKey : (busyWith 0x00000002).pending = some 0x00000002 := rfl

theorem witness_EncEncryptsDinIntoDout :
    ∃ s : State, s.key = ⟨0x74616854, 0x796D2073, 0x6E754B20, 0x75462067⟩ ∧
      s.din = ⟨0x206F7754, 0x20656E4F, 0x656E694E, 0x6F775420⟩ :=
  ⟨{ State.reset with key := _, din := _ }, rfl, rfl⟩

theorem witness_EncEncryptsDinIntoDout_zero : State.reset.key = ⟨0, 0, 0, 0⟩ ∧ State.reset.din = ⟨0, 0, 0, 0⟩ := by decide

theorem witness_DecDecryptsDinIntoDout :
    ∃ s : State, s.key = ⟨0x74616854, 0x796D2073, 0x6E754B20, 0x75462067⟩ ∧
      s.din = ⟨0x5F50C329, 0xF6201457, 0xB3992240, 0x3AD7021A⟩ :=
  ⟨{ State.reset with key := _, din := _ }, rfl, rfl⟩

theorem witness_LoadsAndStoresMoveTheBlock :
    (Instr.enc = .enc ∨ Instr.enc = .dec) ∧ withS0f.sMat = s0f ∧
      ∃ s : State, s.din = ⟨0x03020100, 0x07060504, 0x0B0A0908, 0x0F0E0D0C⟩ :=
  ⟨.inl rfl, rfl, { State.reset with din := _ }, rfl⟩

/-- Every clause of the statement about ARK: idle with KV = 0; pending while the host reads STATUS; S all zero; KV = 1 in a good state; the example. -/
theorem witness_ArkAddsTheRoundKey :
    (10#4).toNat ≤ 10 ∧ (State.reset.pending = none ∧ State.reset.kv = false) ∧
    (∃ t, (busyWith (encode (.ark 10))).pending = some (encode (.ark 10)) ∧
      nextEvent (withInputs (busyWith (encode (.ark 10))) [.memRead 0x04 4]) ≠ .engine ∧
      nextEvent (withInputs (busyWith (encode (.ark 10))) [.memRead 0x04 4]) ≠ .reset ∧
      step (withInputs (busyWith (encode (.ark 10))) [.memRead 0x04 4]) = .next t) ∧
    keyed.sMat = (matrixOf fun _ _ => 0x00) ∧ (keyed.Good ∧ keyed.kv = true) ∧
    (∃ s : State, s.wRam = expandKey ⟨0x16157E2B, 0xA6D2AE28, 0x8815F7AB, 0x3C4FCF09⟩ ∧ s.sMat = s0f) :=
  ⟨by decide, ⟨rfl, rfl⟩, ⟨_, rfl, by decide, by decide, rfl⟩, rfl, ⟨keyed_good, rfl⟩, { keyed with sMat := s0f }, rfl, rfl⟩

theorem witness_RotwRotatesWreg : (withWreg 0x3C4FCF09).wreg = 0x3C4FCF09 := rfl
theorem witness_SubwSubstitutesWreg : (withWreg 0x093C4FCF).wreg = 0x093C4FCF := rfl
theorem witness_RconXorsTheRoundConstant :
    (9#4).toNat ≤ 9 ∧ (withWreg 0).wreg = 0 ∧ (withWreg 0x01EB848A).wreg = 0x01EB848A := ⟨by decide, rfl, rfl⟩
theorem witness_XtimeDoublesTheLowByteOfWreg : (withWreg 0x12345657).wreg = 0x12345657 := rfl
theorem witness_GmulMultipliesTwoBytesOfWreg : (withWreg 0x00008357).wreg = 0x00008357 := rfl
theorem witness_SingleStepsEqualTheDrivers : keyed.pending = none := rfl

end Sys2Proof.Tests
end

/-! PROOFS of the statements of 10_state.md. What the state after reset holds (R38); which steps raise and clear the error
flags (R29); which steps change KEY, W and KV (R28). -/

namespace Sys2Proof

/-! ### The word of a decoded command -/

/-- The fields a command is decoded from are its opcode and its immediate (30_encoding.md R94). -/
theorem fields_of_decodeFields {op : BitVec 6} {imm : BitVec 4} {i : Instr} (h : decodeFields op imm = .ok i) :
    op = i.opcode ∧ imm = i.immediate := by
  have plain {j : Instr} (hw : withoutImmediate op imm j = .ok i) : imm = 0 ∧ j = i := by
    unfold withoutImmediate at hw
    split at hw
    · exact ⟨‹_›, Except.ok.inj hw⟩
    · cases hw
  have ofToNat {n : Nat} (hn : op.toNat = n) : op = BitVec.ofNat 6 n := by simp [← hn]
  unfold decodeFields at h
  split at h
  -- ARK and RCON carry an immediate, the last arm is no command; every other arm is `withoutImmediate`.
  case h_11 hop =>
    split at h
    · cases h; exact ⟨ofToNat hop, rfl⟩
    · cases h
  case h_17 hop =>
    split at h
    · cases h; exact ⟨ofToNat hop, rfl⟩
    · cases h
  case h_20 => cases h
  all_goals
    obtain ⟨himm, rfl⟩ := plain h
    exact ⟨ofToNat ‹_›, himm⟩

/-- A word that decodes to a command is the encoding of that command (30_encoding.md R90 to R95). -/
theorem encode_of_decode {v : Word} {i : Instr} (h : decode v = .ok i) : encode i = v := by
  unfold decode at h
  split at h
  case isTrue hrsv =>
    obtain ⟨hrsv0, hrsv1⟩ := hrsv
    obtain ⟨hop, himm⟩ := fields_of_decodeFields h
    rw [encode, ← hop, ← himm, ← word_eq_op_imm v hrsv0 hrsv1]
  case isFalse => cases h

/-- The commands that expand KEY into W (10_state.md R28). -/
def Instr.ExpandsKey (i : Instr) : Prop := i = .kexp ∨ i = .enc ∨ i = .dec

namespace Machine

variable {s t : State}

/-! ### The step, by register and by command -/

/-- A step in which the host writes is a write to the register at that offset. -/
theorem step_memWrite {off size : Nat} {v : Word} (h : step s = .next t) (he : nextEvent s = .memWrite off size v) :
    ∃ r : Reg, r.offset = off ∧ t = writeReg r v (takeInput s) := by
  rw [step, he, takeEvent, hostWrite] at h
  obtain ⟨hoff, -, halign, rfl⟩ := (hostTransaction_eq_next ..).1 h
  exact ⟨_, offset_regAt hoff halign, rfl⟩

/-- Everything a step can do to the block: only the read data, a write to a register, the commit of a command, or reset. -/
theorem step_block_cases (h : step s = .next t) :
    (∃ rd, t = { takeInput s with rdata := rd }) ∨
    (∃ r v, nextEvent s = .memWrite r.offset 4 v ∧ t = writeReg r v (takeInput s)) ∨
    (nextEvent s = .engine ∧ ∃ i, s.pending = some (encode i) ∧ exec i (takeInput s) = .next t) ∨
    (nextEvent s = .reset ∧ t = resetBlock (takeInput s)) := by
  obtain ⟨off, -, -, -, rfl⟩ | ⟨off, v, he, hoff, halign, rfl⟩ | ⟨-, -, rfl⟩ | ⟨he, v, i, hp, hi, hx⟩ | ⟨he, rfl⟩ :=
    step_cases h
  · exact .inl ⟨_, rfl⟩
  · exact .inr (.inl ⟨_, v, by rw [offset_regAt hoff halign]; exact he, rfl⟩)
  · exact .inl ⟨none, rfl⟩
  · exact .inr (.inr (.inl ⟨he, i, by rw [hp, encode_of_decode hi], hx⟩))
  · exact .inr (.inr (.inr ⟨he, rfl⟩))

/-! ### The error flags -/

/-- The error flag `f` of a state. -/
def State.errorFlag (s : State) : ErrorFlag → Bool
  | .busy => s.errBusy
  | .ill => s.errIll
  | .nokey => s.errNokey

/-- The bit of STATUS at which a flag stands (10_state.md R24). -/
def ErrorFlag.statusBit : ErrorFlag → Nat
  | .busy => 3
  | .ill => 4
  | .nokey => 5

/-- The flag that a write of `v` to a register raises, none when the write is not refused (60_exceptions.md R261, R265). -/
def flagRaised (r : Reg) (v : Word) (s : State) : Option ErrorFlag :=
  match r with
  | .cmd =>
    if s.pending ≠ none then some .busy
    else if legal v = false then some .ill
    else if opField v = opArk ∧ s.kv = false then some .nokey
    else none
  | .wreg | .key _ | .din _ => if s.pending ≠ none then some .busy else none
  | .status | .reserved | .dout _ => none

@[simp] theorem errorFlag_takeInput (f : ErrorFlag) : (takeInput s).errorFlag f = s.errorFlag f := by
  cases f <;> rfl

theorem errorFlag_takeInput_withRdata (f : ErrorFlag) (rd : Option Word) :
    ({ takeInput s with rdata := rd } : State).errorFlag f = s.errorFlag f := by
  cases f <;> rfl

@[simp] theorem flagRaised_takeInput (r : Reg) (v : Word) : flagRaised r v (takeInput s) = flagRaised r v s := rfl

theorem errorFlag_clearStatus (f : ErrorFlag) (v : Word) :
    (clearStatus v s).errorFlag f = (s.errorFlag f && !v.getLsbD f.statusBit) := by
  cases f <;> rfl

/-- A CMD write raises the flag it is refused with, and changes no other flag (60_exceptions.md R261). -/
theorem errorFlag_acceptCommand (f : ErrorFlag) (v : Word) :
    (acceptCommand v s).errorFlag f = (s.errorFlag f || flagRaised .cmd v s == some f) := by
  obtain ⟨hp, ht⟩ | ⟨hp, hl, ht⟩ | ⟨hp, hl, ho, hk, ht⟩ | ⟨hp, hl, hk, ht⟩ := acceptCommand_cases v s
  · cases f <;> simp [ht, flagRaised, hp, State.errorFlag]
  · cases f <;> simp [ht, flagRaised, hp, hl, State.errorFlag]
  · cases f <;> simp [ht, flagRaised, hp, hl, ho, hk, State.errorFlag]
  · have hacc : ¬(opField v = opArk ∧ s.kv = false) := fun ⟨ho, hkv⟩ => by simp [hk ho] at hkv
    cases f <;> simp [ht, flagRaised, hp, hl, hacc, State.errorFlag]

/-- A host write to a register other than STATUS raises the flag it is refused with, and changes no other flag. -/
theorem errorFlag_writeReg (f : ErrorFlag) {r : Reg} (v : Word) (hr : r ≠ .status) :
    (writeReg r v s).errorFlag f = (s.errorFlag f || flagRaised r v s == some f) := by
  cases r with
  | cmd => exact errorFlag_acceptCommand f v
  | status => exact absurd rfl hr
  | reserved | dout => simp [writeReg, flagRaised]
  | wreg | key | din =>
    by_cases hp : s.pending = none
    · cases f <;> simp [writeReg, writeUnlessBusy_idle _ hp, flagRaised, hp, State.errorFlag]
    · cases f <;> simp [writeReg, writeUnlessBusy_busy _ hp, flagRaised, hp, State.errorFlag]

/-- No commit changes an error flag (60_exceptions.md R262). -/
theorem errorFlag_exec {i : Instr} (h : exec i s = .next t) (f : ErrorFlag) : t.errorFlag f = s.errorFlag f := by
  obtain ⟨u, rfl, hbusy, hill, hnokey, -⟩ := exec_eq_next h
  cases f with
  | busy => exact hbusy
  | ill => exact hill
  | nokey => exact hnokey

theorem flagRaised_eq_busy (r : Reg) (v : Word) (s : State) : flagRaised r v s = some .busy ↔
    s.pending ≠ none ∧ (r.offset = 0x00 ∨ r.offset = 0x08 ∨ 0x10 ≤ r.offset ∧ r.offset ≤ 0x2C) := by
  by_cases hp : s.pending = none
  · cases r with
    | cmd => cases hl : legal v <;> simp [flagRaised, hp, hl]
    | _ => simp [flagRaised, hp]
  · cases r with
    | key j | din j | dout j => simp [flagRaised, hp, Reg.offset]; omega
    | _ => simp [flagRaised, hp, Reg.offset]

theorem flagRaised_eq_ill (r : Reg) (v : Word) (s : State) : flagRaised r v s = some .ill ↔
    s.pending = none ∧ r = .cmd ∧ legal v = false := by
  by_cases hp : s.pending = none
  · cases r <;> simp [flagRaised, hp]
  · cases r <;> simp [flagRaised, hp]

theorem flagRaised_eq_nokey (r : Reg) (v : Word) (s : State) : flagRaised r v s = some .nokey ↔
    s.pending = none ∧ r = .cmd ∧ legal v = true ∧ opField v = opArk ∧ s.kv = false := by
  by_cases hp : s.pending = none
  · cases hl : legal v <;> cases r <;> simp [flagRaised, hp, hl]
  · cases r <;> simp [flagRaised, hp]

/-- A refused write leaves its flag set. -/
theorem errorFlag_of_flagRaised {f : ErrorFlag} {r : Reg} {v : Word} (h : flagRaised r v s = some f) :
    (writeReg r v s).errorFlag f = true := by
  have hr : r ≠ .status := by rintro rfl; cases h
  simp [errorFlag_writeReg f v hr, h]

/-- A step that clears a flag is reset or a STATUS write of 1 to the flag's bit (10_state.md R29). -/
theorem step_clears_errorFlag {f : ErrorFlag} (h : step s = .next t) (hs : s.errorFlag f = true)
    (ht : t.errorFlag f = false) :
    nextEvent s = .reset ∨ ∃ v : Word, nextEvent s = .memWrite 0x04 4 v ∧ v.getLsbD f.statusBit = true := by
  obtain ⟨rd, rfl⟩ | ⟨r, v, he, rfl⟩ | ⟨-, i, -, hx⟩ | ⟨he, -⟩ := step_block_cases h
  · rw [errorFlag_takeInput_withRdata, hs] at ht; cases ht
  · by_cases hr : r = .status
    · subst hr
      have hbit : v.getLsbD f.statusBit = true := by simpa [writeReg, errorFlag_clearStatus, hs] using ht
      exact .inr ⟨v, he, hbit⟩
    · simp [errorFlag_writeReg f v hr, hs] at ht
  · simp [errorFlag_exec hx, hs] at ht
  · exact .inl he

/-- A step that raises a flag is a host write refused with that flag (10_state.md R29). -/
theorem step_raises_errorFlag {f : ErrorFlag} (h : step s = .next t) (hs : s.errorFlag f = false)
    (ht : t.errorFlag f = true) :
    ∃ (r : Reg) (v : Word), nextEvent s = .memWrite r.offset 4 v ∧ flagRaised r v s = some f := by
  obtain ⟨rd, rfl⟩ | ⟨r, v, he, rfl⟩ | ⟨-, i, -, hx⟩ | ⟨-, rfl⟩ := step_block_cases h
  · rw [errorFlag_takeInput_withRdata, hs] at ht; cases ht
  · by_cases hr : r = .status
    · simp [hr, writeReg, errorFlag_clearStatus, hs] at ht
    · exact ⟨r, v, he, by simpa [errorFlag_writeReg f v hr, hs] using ht⟩
  · simp [errorFlag_exec hx, hs] at ht
  · cases f <;> cases ht

/-- What a CMD write leaves pending, in terms of PENDING, KV and the word alone (60_exceptions.md R261). -/
theorem acceptCommand_pending (v : Word) (s : State) : (acceptCommand v s).pending =
    if s.pending = none ∧ legal v = true ∧ (opField v = opArk → s.kv = true) then some v else s.pending := by
  obtain ⟨hp, ht⟩ | ⟨hp, hl, ht⟩ | ⟨hp, hl, ho, hk, ht⟩ | ⟨hp, hl, hk, ht⟩ := acceptCommand_cases v s
  · simp [ht, hp]
  · simp [ht, hl]
  · simp [ht, ho, hk]
  · simpa [ht, hp, hl] using hk

theorem hostWrite_cmd_eq_next {v : Word} (h : hostWrite 0x00 4 v s = .next t) : t = acceptCommand v s := by
  obtain ⟨-, -, -, ht⟩ := (hostTransaction_eq_next ..).1 h
  exact ht

/-! ### KEY, W and KV -/

/-- Two states hold the same KEY, W and KV. -/
def SameKeySchedule (s t : State) : Prop := t.key = s.key ∧ t.wRam = s.wRam ∧ t.kv = s.kv

/-- Everything a commit can do to KEY, W and KV (10_state.md R21, R28). -/
theorem exec_keySchedule_cases {i : Instr} (h : exec i s = .next t) :
    SameKeySchedule s t ∨ (i.ExpandsKey ∧ t.wRam = expandKey t.key ∧ t.kv = true) ∨ (i = .zero ∧ t.kv = false) := by
  cases i with
  | kexp | enc | dec => cases h; exact .inr (.inl ⟨by simp [Instr.ExpandsKey], rfl, rfl⟩)
  | zero => cases h; exact .inr (.inr ⟨rfl, rfl⟩)
  | ark rnd =>
    by_cases hr : rnd.toNat < 11
    · rw [exec_ark s rnd hr] at h; cases h; exact .inl ⟨rfl, rfl, rfl⟩
    · rw [exec_ark_refused s rnd hr] at h; cases h
  | rcon r =>
    by_cases hr : r.toNat < 10
    · rw [exec_rcon s r hr] at h; cases h; exact .inl ⟨rfl, rfl, rfl⟩
    · rw [exec_rcon_refused s r hr] at h; cases h
  | _ => cases h; exact .inl ⟨rfl, rfl, rfl⟩

theorem acceptCommand_sameKeySchedule (v : Word) (s : State) : SameKeySchedule s (acceptCommand v s) := by
  obtain ⟨-, ht⟩ | ⟨-, -, ht⟩ | ⟨-, -, -, -, ht⟩ | ⟨-, -, -, ht⟩ := acceptCommand_cases v s <;>
    rw [ht] <;> exact ⟨rfl, rfl, rfl⟩

/-- Everything a host write can do to KEY, W and KV (10_state.md R35). -/
theorem writeReg_keySchedule_cases (r : Reg) (v : Word) (s : State) :
    SameKeySchedule s (writeReg r v s) ∨ (s.pending = none ∧ (∃ j, r = .key j) ∧ (writeReg r v s).kv = false) := by
  obtain ⟨-, ht⟩ | ⟨-, ht⟩ | ⟨-, ht⟩ | ⟨-, -, ht⟩ | ⟨-, -, ht⟩ | ⟨hp, j, hj, ht⟩ | ⟨-, j, -, ht⟩ :=
    writeReg_cases r v s
  · rw [ht]; exact .inl (acceptCommand_sameKeySchedule v s)
  · rw [ht]; exact .inl ⟨rfl, rfl, rfl⟩
  · rw [ht]; exact .inl ⟨rfl, rfl, rfl⟩
  · rw [ht]; exact .inl ⟨rfl, rfl, rfl⟩
  · rw [ht]; exact .inl ⟨rfl, rfl, rfl⟩
  · exact .inr ⟨hp, ⟨j, hj⟩, by rw [ht]⟩
  · rw [ht]; exact .inl ⟨rfl, rfl, rfl⟩

/-- The causes for which a step leaves KV at 0 (10_state.md R28). -/
def ClearsKv (s : State) : Prop :=
  nextEvent s = .reset ∨ (nextEvent s = .engine ∧ s.pending = some (encode .zero)) ∨
    (s.pending = none ∧ ∃ (j : Fin 4) (v : Word), nextEvent s = .memWrite (Reg.key j).offset 4 v)

/-- Everything a step can do to KEY, W and KV (10_state.md R28). -/
theorem step_keySchedule_cases (h : step s = .next t) :
    SameKeySchedule s t ∨
    (nextEvent s = .engine ∧ (∃ i, i.ExpandsKey ∧ s.pending = some (encode i)) ∧
      t.wRam = expandKey t.key ∧ t.kv = true) ∨
    (ClearsKv s ∧ t.kv = false) := by
  obtain ⟨rd, rfl⟩ | ⟨r, v, he, rfl⟩ | ⟨he, i, hp, hx⟩ | ⟨he, rfl⟩ := step_block_cases h
  · exact .inl ⟨rfl, rfl, rfl⟩
  · obtain hsame | ⟨hp, ⟨j, rfl⟩, hkv⟩ := writeReg_keySchedule_cases r v (takeInput s)
    · exact .inl hsame
    · exact .inr (.inr ⟨.inr (.inr ⟨hp, j, v, he⟩), hkv⟩)
  · obtain hsame | ⟨hi, hw, hkv⟩ | ⟨rfl, hkv⟩ := exec_keySchedule_cases hx
    · exact .inl hsame
    · exact .inr (.inl ⟨he, ⟨i, hi, hp⟩, hw, hkv⟩)
    · exact .inr (.inr ⟨.inr (.inl ⟨he, hp⟩), hkv⟩)
  · exact .inr (.inr ⟨.inl he, rfl⟩)

/-- KV goes to 1 only by the commit of KEXP, ENC or DEC. -/
theorem step_raises_kv (h : step s = .next t) (hs : s.kv = false) (ht : t.kv = true) :
    nextEvent s = .engine ∧ ∃ i, i.ExpandsKey ∧ s.pending = some (encode i) := by
  obtain ⟨-, -, hkv⟩ | ⟨he, hi, -, -⟩ | ⟨-, hkv⟩ := step_keySchedule_cases h
  · simp [hkv, hs] at ht
  · exact ⟨he, hi⟩
  · simp [hkv] at ht

/-- KV goes to 0 only by a cause of `ClearsKv`. -/
theorem step_clears_kv (h : step s = .next t) (hs : s.kv = true) (ht : t.kv = false) : ClearsKv s := by
  obtain ⟨-, -, hkv⟩ | ⟨-, -, -, hkv⟩ | ⟨hc, -⟩ := step_keySchedule_cases h
  · simp [hkv, hs] at ht
  · simp [hkv] at ht
  · exact hc

/-- Every step keeps the promise of KV: W is the schedule of KEY (10_state.md R28). -/
theorem step_keeps_scheduleOfKey (h : step s = .next t) (hs : s.kv = true → s.wRam = expandKey s.key)
    (ht : t.kv = true) : t.wRam = expandKey t.key := by
  obtain ⟨hkey, hw, hkv⟩ | ⟨-, -, hw, -⟩ | ⟨-, hkv⟩ := step_keySchedule_cases h
  · rw [hkey, hw]; exact hs (hkv ▸ ht)
  · exact hw
  · simp [hkv] at ht

/-- ARK on an idle block with KV = 0 is rejected with ERR_NOKEY (43_state_transforms.md R193). -/
theorem ark_refused_without_key {rnd : BitVec 4} (hr : rnd.toNat ≤ 10) (hp : s.pending = none) (hk : s.kv = false) :
    hostWrite 0x00 4 (encode (.ark rnd)) s = .next { s with done := false, errNokey := true } := by
  have hlegal : ∀ rnd : BitVec 4, rnd.toNat ≤ 10 → legal (encode (.ark rnd)) = true := by decide
  obtain ⟨hop, -⟩ := Laws.EncodedFields.ark rnd
  have hwrite : writeReg .cmd (encode (.ark rnd)) s = _ := acceptCommand_nokey hp (hlegal rnd hr) hop hk
  rw [← hwrite]
  exact hostWrite_offset .cmd _ s

end Machine

/-! ### The statements -/

open Machine

/-- Settles O9: each register of `State.reset` holds the value of 10_state.md R38. -/
theorem resetValues : Obligations.ResetValues := by
  refine ⟨rfl, rfl, rfl, rfl, rfl, rfl, rfl, rfl, Quad.get_all _, Quad.get_all _, Quad.get_all _, ?_, ?_⟩
  · intro r c
    simp [State.reset, cell]
  · intro i
    simp [State.reset]

/-- Settles O19, from the flag each refused write raises (`flagRaised`) and the four kinds of step. -/
theorem errorFlagsAreSticky : Obligations.ErrorFlagsAreSticky := by
  refine ⟨?sets, ?never_block, ?changes⟩
  case sets =>
    intro s t off v h he
    obtain ⟨r, rfl, rfl⟩ := step_memWrite h he
    have raises {f : ErrorFlag} (hf : flagRaised r v s = some f) :
        (writeReg r v (takeInput s)).errorFlag f = true := errorFlag_of_flagRaised hf
    have cmd (hoff : r.offset = 0x00) : r = .cmd := by
      rw [← regAt_offset r, hoff]; rfl
    exact ⟨fun hp hoff => raises (f := .busy) ((flagRaised_eq_busy r v s).2 ⟨hp, hoff⟩),
      fun hp hoff hl => raises (f := .ill) ((flagRaised_eq_ill r v s).2 ⟨hp, cmd hoff, hl⟩),
      fun hp hoff hl ho hk => raises (f := .nokey) ((flagRaised_eq_nokey r v s).2 ⟨hp, cmd hoff, hl, ho, hk⟩)⟩
  case never_block =>
    intro s t t' v a b c h h'
    rw [hostWrite_cmd_eq_next h, hostWrite_cmd_eq_next h', acceptCommand_pending, acceptCommand_pending]
  case changes =>
    intro s t h
    refine ⟨step_clears_errorFlag (f := .busy) h, step_clears_errorFlag (f := .ill) h,
      step_clears_errorFlag (f := .nokey) h, fun hs ht => ?_, fun hs ht => ?_, fun hs ht => ?_⟩
    · obtain ⟨r, v, he, hf⟩ := step_raises_errorFlag (f := .busy) h hs ht
      obtain ⟨hp, hoff⟩ := (flagRaised_eq_busy r v s).1 hf
      exact ⟨hp, r.offset, v, he, hoff⟩
    · obtain ⟨r, v, he, hf⟩ := step_raises_errorFlag (f := .ill) h hs ht
      obtain ⟨hp, rfl, hl⟩ := (flagRaised_eq_ill r v s).1 hf
      exact ⟨hp, v, he, hl⟩
    · obtain ⟨r, v, he, hf⟩ := step_raises_errorFlag (f := .nokey) h hs ht
      obtain ⟨hp, rfl, hl, ho, hk⟩ := (flagRaised_eq_nokey r v s).1 hf
      exact ⟨hp, hk, v, he, hl, ho⟩

/-- Settles O20, from everything a step can do to KEY, W and KV (`step_keySchedule_cases`). -/
theorem keyValidChanges : Obligations.KeyValidChanges := by
  refine ⟨?raised, ?cleared, ?expand, ?zero, ?keyWrite, ?reset, ?ark, ?promise⟩
  case raised =>
    intro s t h hs ht
    obtain ⟨he, i, hi, hp⟩ := step_raises_kv h hs ht
    refine ⟨he, encode i, hp, ?_⟩
    obtain rfl | rfl | rfl := hi <;> decide
  case cleared =>
    intro s t h hs ht
    obtain he | hz | ⟨hp, j, v, he⟩ := step_clears_kv h hs ht
    · exact .inl he
    · exact .inr (.inl hz)
    · exact .inr (.inr ⟨hp, _, v, he, by simp [Reg.offset], by simp [Reg.offset]; omega⟩)
  case expand =>
    intro s i hi
    obtain rfl | rfl | rfl := hi
    · exact ⟨_, exec_kexp s, rfl, rfl⟩
    · exact ⟨_, exec_enc s, rfl, rfl⟩
    · exact ⟨_, exec_dec s, rfl, rfl⟩
  case zero => exact fun s => ⟨_, exec_zero s, rfl⟩
  case keyWrite =>
    intro s j v hp
    exact ⟨_, hostWrite_offset (.key j) v s, by simp [writeReg, writeUnlessBusy_idle _ hp]⟩
  case reset =>
    intro s t he h
    rw [step, he] at h
    cases h
    rfl
  case ark =>
    intro s rnd hr hp hk
    exact ⟨_, ark_refused_without_key hr hp hk, rfl, hp⟩
  case promise => exact fun s t hg h ht => step_keeps_scheduleOfKey h hg.scheduleOfKey ht

end Sys2Proof

/-! PROOFS of the statements of 30_encoding.md about legal words: which words are legal (R95), and what becomes of the others (R96). -/

namespace Sys2Proof

open Claims

/-! ### The legal words -/

/-- The conditions of 30_encoding.md R95 on OP and IMM, as numbers. -/
def ListedWithImmediateInRange (op imm : Nat) : Prop :=
  op ∈ listedOpcodes ∧ (op = 0x13 → imm ≤ 10) ∧ (op = 0x22 → imm ≤ 9) ∧ (op ≠ 0x13 → op ≠ 0x22 → imm = 0)

theorem legalFields_iff (op : BitVec 6) (imm : BitVec 4) :
    legalFields op imm = true ↔ ListedWithImmediateInRange op.toNat imm.toNat := by
  unfold legalFields ListedWithImmediateInRange
  split
  -- The last arm is the unlisted opcodes; in every other one OP is a numeral.
  case h_20 =>
    have unlisted : op.toNat ∉ listedOpcodes := by simp_all [listedOpcodes]
    simp [unlisted]
  all_goals
    rename_i hop
    simp [hop, listedOpcodes, BitVec.toNat_eq]

/-- An opcode that takes no immediate decodes exactly when IMM is 0 (30_encoding.md R92). -/
theorem withoutImmediate_ok_iff (op : BitVec 6) (imm : BitVec 4) (j : Instr) :
    (∃ i, withoutImmediate op imm j = .ok i) ↔ imm = 0 := by
  unfold withoutImmediate
  split
  case isTrue himm => simp [himm]
  case isFalse himm => simpa using himm

/-- The opcode map takes exactly the listed opcodes with IMM in range (30_encoding.md R92, R94). -/
theorem decodeFields_ok_iff (op : BitVec 6) (imm : BitVec 4) :
    (∃ i, decodeFields op imm = .ok i) ↔ ListedWithImmediateInRange op.toNat imm.toNat := by
  unfold decodeFields ListedWithImmediateInRange
  split
  -- ARK and RCON carry an immediate, the last arm is the unlisted opcodes; every other arm is `withoutImmediate`.
  case h_20 =>
    have unlisted : op.toNat ∉ listedOpcodes := by simp_all [listedOpcodes]
    simp [unlisted]
  case h_11 hop =>
    by_cases hr : imm.toNat ≤ 10 <;> simp [hop, listedOpcodes, roundInRange, hr]
  case h_17 hop =>
    by_cases hr : imm.toNat ≤ 9 <;> simp [hop, listedOpcodes, rconInRange, hr]
  all_goals
    rename_i hop
    simp [withoutImmediate_ok_iff, hop, listedOpcodes, BitVec.toNat_eq]

/-- A word is legal exactly when no reserved bit is set, its OP is listed and its IMM is in range (30_encoding.md R95). -/
theorem legal_iff (v : Word) : legal v = true ↔
    rsv1Field v = 0 ∧ rsv0Field v = 0 ∧ ListedWithImmediateInRange (opField v).toNat (immField v).toNat := by
  rw [← legalFields_iff]
  simp [legal, and_assoc]

/-- Exactly the legal words decode to a command (30_encoding.md R95). -/
theorem legal_iff_decode_ok (v : Word) : legal v = true ↔ ∃ i, decode v = .ok i := by
  rw [legal_iff, ← decodeFields_ok_iff]
  unfold decode
  split
  case isTrue hrsv => simp [hrsv]
  case isFalse hrsv =>
    exact iff_of_false (fun ⟨hrsv1, hrsv0, _⟩ => hrsv ⟨hrsv0, hrsv1⟩) (fun ⟨_, hi⟩ => nomatch hi)

/-! ### The rejection of a CMD write -/

namespace Machine

theorem hostWrite_cmd (v : Word) (s : State) : hostWrite 0x00 4 v s = .next (acceptCommand v s) :=
  hostWrite_offset .cmd v s

end Machine

/-! ### The statements -/

open Machine

/-- Settles O3, from the conditions on the fields (`legal_iff`) read as numbers. -/
theorem legalExactlyWhenTheFiveConditionsHold : Obligations.LegalExactlyWhenTheFiveConditionsHold := by
  intro v
  refine ⟨?_, legal_iff_decode_ok v⟩
  have hrsv1 : rsv1Field v = 0 ↔ v.toNat / 2 ^ 12 = 0 := by rw [← rsv1Field_toNat, BitVec.toNat_eq]; rfl
  have hrsv0 : rsv0Field v = 0 ↔ v.toNat / 2 ^ 6 % 4 = 0 := by rw [← rsv0Field_toNat, BitVec.toNat_eq]; rfl
  rw [legal_iff, hrsv1, hrsv0, opField_toNat, immField_toNat, ListedWithImmediateInRange]

/-- Settles O4: the two outcomes are those of `acceptCommand`, and each class of words breaks one condition of `legal_iff`. -/
theorem illegalWordsAreRejected : Obligations.IllegalWordsAreRejected := by
  refine ⟨?idle, ?busy, ?unassigned, ?rsv0, ?rsv1, ?round, ?rcon, ?immediate⟩
  case idle => intro s v hl hp; rw [hostWrite_cmd, acceptCommand_illegal hp hl]
  case busy => intro s v _ hp; rw [hostWrite_cmd, acceptCommand_busy hp]
  all_goals
    intro v
    rw [← Bool.not_eq_true, legal_iff, ListedWithImmediateInRange]
  case unassigned => exact fun h ⟨_, _, hop, _⟩ => h hop
  case rsv0 => exact fun h ⟨_, hrsv0, _⟩ => h hrsv0
  case rsv1 => exact fun h ⟨hrsv1, _⟩ => h hrsv1
  case round =>
    intro hop himm ⟨_, _, _, hround, _⟩
    have := hround (by rw [hop]; rfl)
    omega
  case rcon =>
    intro hop himm ⟨_, _, _, _, hrcon, _⟩
    have := hrcon (by rw [hop]; rfl)
    omega
  case immediate =>
    intro hark hrcon himm ⟨_, _, _, _, _, hzero⟩
    have hark' : (opField v).toNat ≠ 0x13 := fun h => hark (BitVec.eq_of_toNat_eq h)
    have hrcon' : (opField v).toNat ≠ 0x22 := fun h => hrcon (BitVec.eq_of_toNat_eq h)
    exact himm (BitVec.eq_of_toNat_eq (hzero hark' hrcon'))

end Sys2Proof

/-! PROOFS of the statements of 40_gf_arith.md: `xtime` and `gmul` as arithmetic of polynomials over GF(2) (R120 to R123), and the two
commands XTIME and GMUL (R124, R125). -/

namespace Sys2Proof

open Claims

namespace Machine

/-! ### `xtime` as a number -/

/-- Bit 7 of a byte is set exactly when its number is at least 128. -/
theorem getLsbD_seven_iff (b : Byte) : b.getLsbD 7 = true ↔ b.toNat ≥ 128 := by
  rw [show b.getLsbD 7 = b.msb from rfl, BitVec.msb_eq_decide, decide_eq_true_iff]

/-- The number of a doubled byte, before the reduction (40_gf_arith.md R121). -/
theorem shiftLeft_one_toNat (b : Byte) : (b <<< 1).toNat = 2 * b.toNat % 256 := by
  rw [BitVec.toNat_shiftLeft, Nat.shiftLeft_eq, Nat.mul_comm]

/-! ### Bytes as sums of single bits -/

/-- A property that XOR keeps holds of every byte once it holds of the single bits: 0 is a single bit XOR itself. -/
theorem byte_bit_induction {P : Byte → Prop} (xor : ∀ a b, P a → P b → P (a ^^^ b))
    (bit : ∀ i : Fin 8, P (1#8 <<< i.val)) (a : Byte) : P a :=
  byte_xor_induction (by simpa using xor _ _ (bit 0) (bit 0)) xor bit a

/-- A relation that XOR keeps in each argument holds of all bytes once it holds of the single bits. -/
theorem byte_bit_induction₂ {R : Byte → Byte → Prop}
    (left : ∀ a a' b, R a b → R a' b → R (a ^^^ a') b) (right : ∀ a b b', R a b → R a b' → R a (b ^^^ b'))
    (bit : ∀ i j : Fin 8, R (1#8 <<< i.val) (1#8 <<< j.val)) (a b : Byte) : R a b := by
  induction a using byte_bit_induction with
  | xor a a' ha ha' => exact left a a' b ha ha'
  | bit i =>
    induction b using byte_bit_induction with
    | xor b b' hb hb' => exact right _ b b' hb hb'
    | bit j => exact bit i j

/-! ### `gmul` as a sum of powers of `xtime` -/

theorem xtimes_add (m n : Nat) (a : Byte) : xtimes (m + n) a = xtimes m (xtimes n a) := by
  induction m with
  | zero => rw [Nat.zero_add, xtimes]
  | succ m ih => rw [Nat.succ_add, xtimes, xtimes, ih]

/-- A single bit is a power of x (40_gf_arith.md R120). -/
theorem bit_eq_xtimes_one (i : Fin 8) : 1#8 <<< i.val = xtimes i.val 1#8 := by
  revert i; decide

/-- Multiplication by a single bit is a power of `xtime`: the product has one summand (40_gf_arith.md R122). -/
theorem gmul_bit (a : Byte) (i : Fin 8) : gmul a (1#8 <<< i.val) = xtimes i.val a := by
  rw [gmul_eq_sum]
  fin_cases i <;> simp [gmulTerm]

@[simp] theorem gmul_one (a : Byte) : gmul a 1#8 = a := gmul_bit a 0

@[simp] theorem gmul_zero (a : Byte) : gmul a 0#8 = 0#8 := by
  rw [gmul_eq_sum]
  simp [gmulTerm]

/-- 40_gf_arith.md R123, from the single bits: x^i times x^j is x^(i+j). -/
theorem gmul_comm (a b : Byte) : gmul a b = gmul b a := by
  induction a, b using byte_bit_induction₂ with
  | left a a' b h h' => rw [gmul_xor_left, gmul_xor_right, h, h']
  | right a b b' h h' => rw [gmul_xor_left, gmul_xor_right, h, h']
  | bit i j =>
    rw [gmul_bit, gmul_bit, bit_eq_xtimes_one, bit_eq_xtimes_one, ← xtimes_add, ← xtimes_add, Nat.add_comm]

@[simp] theorem one_gmul (a : Byte) : gmul 1#8 a = a := by rw [gmul_comm, gmul_one]

@[simp] theorem zero_gmul (a : Byte) : gmul 0#8 a = 0#8 := by rw [gmul_comm, gmul_zero]

/-- Powers of x pass through a product: they pass through each of its summands. -/
theorem gmul_xtimes_left (n : Nat) (a b : Byte) : gmul (xtimes n a) b = xtimes n (gmul a b) := by
  induction b using byte_bit_induction with
  | xor b b' h h' => rw [gmul_xor_right, gmul_xor_right, xtimes_xor, h, h']
  | bit i => rw [gmul_bit, gmul_bit, ← xtimes_add, ← xtimes_add, Nat.add_comm]

/-- 40_gf_arith.md R123, from a single bit as the last factor, which is a power of x. -/
theorem gmul_assoc (a b c : Byte) : gmul (gmul a b) c = gmul a (gmul b c) := by
  induction c using byte_bit_induction with
  | xor c c' h h' => simp only [gmul_xor_right, h, h']
  | bit i =>
    calc gmul (gmul a b) (1#8 <<< i.val)
      _ = xtimes i.val (gmul a b) := gmul_bit _ i
      _ = xtimes i.val (gmul b a) := by rw [gmul_comm]
      _ = gmul (xtimes i.val b) a := (gmul_xtimes_left _ b a).symm
      _ = gmul a (gmul b (1#8 <<< i.val)) := by rw [gmul_comm, gmul_bit]

theorem gmul_two (a : Byte) : gmul a 2#8 = xtime a := gmul_bit a 1

theorem gmul_three (a : Byte) : gmul a 3#8 = xtime a ^^^ a := by
  rw [show 3#8 = 2#8 ^^^ 1#8 from rfl, gmul_xor_right, gmul_two, gmul_one]

/-! ### Field inverses -/

/-- The inverse of a byte other than 0: SBOX without its affine map (41_sbox.md R141). -/
def fieldInverse (a : Byte) : Byte :=
  (sbox a).rotateLeft 1 ^^^ (sbox a).rotateLeft 3 ^^^ (sbox a).rotateLeft 6 ^^^ 0x05

/-- Every byte but 0 has an inverse: the table SBOX gives it, checked entry by entry. -/
theorem gmul_fieldInverse : ∀ a : Byte, a ≠ 0#8 → gmul a (fieldInverse a) = 1#8 := by
  decide

/-- 40_gf_arith.md R123: a factor that is not 0 cancels by its inverse. -/
theorem eq_zero_of_gmul_eq_zero {a b : Byte} (h : gmul a b = 0#8) (ha : a ≠ 0#8) : b = 0#8 := by
  calc b
    _ = gmul (gmul a (fieldInverse a)) b := by rw [gmul_fieldInverse a ha, one_gmul]
    _ = gmul (fieldInverse a) (gmul a b) := by rw [gmul_comm a, gmul_assoc]
    _ = 0#8 := by rw [h, gmul_zero]

end Machine

open Machine

/-! ### The product and the remainder of polynomials are linear -/

namespace Claims

theorem xor_xor_xor_comm (p q c d : Nat) : (p ^^^ c) ^^^ (q ^^^ d) = (p ^^^ q) ^^^ (c ^^^ d) := by ac_rfl

/-- Adding `d` under the sum of two conditions is adding it under each of them. -/
theorem ite_xor_xor (x y : Bool) (p q d : Nat) : (if x then p ^^^ d else p) ^^^ (if y then q ^^^ d else q) =
    if x ^^ y then (p ^^^ q) ^^^ d else p ^^^ q := by
  cases x <;> cases y
  · rfl
  · exact (Nat.xor_assoc p q d).symm
  · exact Nat.xor_right_comm p d q
  · show (p ^^^ d) ^^^ (q ^^^ d) = p ^^^ q
    rw [xor_xor_xor_comm, Nat.xor_self, Nat.xor_zero]

/-- Folds whose turns add up, from starts that add up, add up. -/
theorem foldl_xor {f g h : Nat → Nat → Nat} {l : List Nat} {p q r : Nat} (start : r = p ^^^ q)
    (turn : ∀ p q i, g p i ^^^ h q i = f (p ^^^ q) i) : l.foldl f r = l.foldl g p ^^^ l.foldl h q := by
  rw [start]
  exact List.foldl_hom₂ l HXor.hXor g h f p q turn

theorem polyProduct_xor_left (a a' b : Nat) : polyProduct (a ^^^ a') b = polyProduct a b ^^^ polyProduct a' b := by
  refine foldl_xor rfl fun p q i => ?_
  split
  · rw [xor_xor_xor_comm, Nat.shiftLeft_xor_distrib]
  · rfl

theorem polyProduct_xor_right (a b b' : Nat) : polyProduct a (b ^^^ b') = polyProduct a b ^^^ polyProduct a b' := by
  refine foldl_xor rfl fun p q i => ?_
  simp only [Nat.testBit_xor]
  exact ite_xor_xor _ _ p q _

theorem polyRemainder_xor (p q : Nat) : polyRemainder (p ^^^ q) = polyRemainder p ^^^ polyRemainder q := by
  refine foldl_xor rfl fun p q k => ?_
  simp only [Nat.testBit_xor]
  exact ite_xor_xor _ _ p q _

end Claims

/-! ### A command's rule from its commit -/

/-- The word of a decoded command has the command's opcode (30_encoding.md R94). -/
theorem opField_of_decode {v : Word} {i : Instr} (h : decode v = .ok i) : opField v = i.opcode := by
  unfold decode at h
  split at h
  · exact (fields_of_decodeFields h).1
  · cases h

/-- A word with a command's opcode is illegal when its IMM is above what the opcode allows or a reserved bit is set
(30_encoding.md R95). -/
theorem legal_eq_false_of_fields {v : Word} {i : Instr} {immMax : Nat} (hop : opField v = i.opcode)
    (himm : ∀ imm, ListedWithImmediateInRange i.opcode.toNat imm → imm ≤ immMax)
    (hbad : (immField v).toNat > immMax ∨ rsv0Field v ≠ 0 ∨ rsv1Field v ≠ 0) : legal v = false := by
  rw [← Bool.not_eq_true, legal_iff, hop]
  rintro ⟨hrsv1, hrsv0, hlisted⟩
  obtain hgt | hne | hne := hbad
  · exact absurd (himm _ hlisted) (by omega)
  · exact hne hrsv0
  · exact hne hrsv1

/-- Everything of a command's rule but its commit is decoding and acceptance, the same for every command: it is enough to give the
command's word, the range of its immediate, and what its commit answers (60_exceptions.md R261, R262). -/
theorem commandRule_of_exec {i : Instr} {word : Word} {immMax : Nat} {effect : State → State} (hdecode : decode word = .ok i)
    (himm : ∀ imm, ListedWithImmediateInRange i.opcode.toNat imm → imm ≤ immMax)
    (hexec : ∀ s, exec i s = .next (complete (effect s))) : CommandRule i word immMax effect := by
  refine ⟨hdecode, encode_of_decode hdecode, ?busy, ?illegal, ?accepted, hexec⟩
  case busy =>
    intro s v _ hp
    rw [hostWrite_cmd, acceptCommand_busy hp]
  case illegal =>
    intro s v hop hp hbad
    rw [hostWrite_cmd, acceptCommand_illegal hp (legal_eq_false_of_fields hop himm hbad)]
  case accepted =>
    intro s hp hkv
    have hlegal : legal word = true := (legal_iff_decode_ok word).2 ⟨i, hdecode⟩
    rw [hostWrite_cmd, acceptCommand_accepted hp hlegal fun hark => hkv (opField_of_decode hdecode ▸ hark)]

/-- An opcode other than ARK's and RCON's takes no immediate but 0 (30_encoding.md R92). -/
theorem immediate_le_zero {op imm : Nat} (hark : op ≠ 0x13) (hrcon : op ≠ 0x22) (h : ListedWithImmediateInRange op imm) :
    imm ≤ 0 := by
  obtain ⟨_, _, _, hzero⟩ := h
  exact (hzero hark hrcon).le

/-- A byte extended to a word has nothing above the byte. -/
theorem zext32_shiftRight_eight (b : Byte) : zext32 b >>> 8 = 0 := by
  apply BitVec.eq_of_toNat_eq
  have hb := b.isLt
  rw [BitVec.toNat_ushiftRight, Nat.shiftRight_eq_div_pow, zext32, BitVec.toNat_setWidth, Nat.mod_eq_of_lt (by omega)]
  exact Nat.div_eq_of_lt hb

/-! ### The statements -/

/-- Settles O32: the doubled byte and the reduction's condition, read as numbers. -/
theorem xtimeDoublesAndReduces : Obligations.XtimeDoublesAndReduces := by
  intro b
  rw [xtime, BitVec.toNat_xor, shiftLeft_one_toNat]
  simp only [getLsbD_seven_iff]
  split <;> rfl

/-- Settles O33: both sides are linear in each factor, so the products of single bits suffice. -/
theorem gmulIsPolynomialProductModulo0x11B : Obligations.GmulIsPolynomialProductModulo0x11B := by
  intro a b
  induction a, b using byte_bit_induction₂ with
  | left a a' b h h' =>
    rw [gmul_xor_left, BitVec.toNat_xor, BitVec.toNat_xor, polyProduct_xor_left, polyRemainder_xor, h, h']
  | right a b b' h h' =>
    rw [gmul_xor_right, BitVec.toNat_xor, BitVec.toNat_xor, polyProduct_xor_right, polyRemainder_xor, h, h']
  | bit i j =>
    revert i j
    decide

/-- Settles O34, law by law. -/
theorem gmulFieldLaws : Obligations.GmulFieldLaws :=
  ⟨gmul_comm, gmul_zero, gmul_one, gmul_two, gmul_three, gmul_xor_right, gmul_assoc,
    fun _ _ h => or_iff_not_imp_left.2 (eq_zero_of_gmul_eq_zero h)⟩

/-- Settles O55, from the commit of XTIME (`exec_xtime`). -/
theorem xtimeDoublesTheLowByteOfWreg : Obligations.XtimeDoublesTheLowByteOfWreg := by
  refine ⟨?rule, by decide, by decide, by decide, by decide, ?cleared, ?sample⟩
  case rule => exact commandRule_of_exec (by decide) (fun _ => immediate_le_zero (by decide) (by decide)) exec_xtime
  case cleared => exact fun s => ⟨_, exec_xtime s, zext32_shiftRight_eight _⟩
  case sample =>
    intro s hs
    refine ⟨_, exec_xtime s, ?_⟩
    simp only [complete_wreg, wregLow, hs]
    decide

/-- Settles O56, from the commit of GMUL (`exec_gmul`) and the laws of the product. -/
theorem gmulMultipliesTwoBytesOfWreg : Obligations.GmulMultipliesTwoBytesOfWreg := by
  refine ⟨?rule, fun b => ⟨zero_gmul b, gmul_zero b, one_gmul b, gmul_one b⟩, gmul_comm, ?cleared, ?sample⟩
  case rule => exact commandRule_of_exec (by decide) (fun _ => immediate_le_zero (by decide) (by decide)) exec_gmul
  case cleared => exact fun s => ⟨_, exec_gmul s, zext32_shiftRight_eight _⟩
  case sample =>
    intro s hs
    refine ⟨_, exec_gmul s, ?_⟩
    simp only [complete_wreg, wregLow, wregHigh, hs]
    decide

end Sys2Proof

/-! PROOFS of the statement of 41_sbox.md: the affine map of the field inverse (R141), and the two tables as inverse permutations
(R143). -/

namespace Sys2Proof

open Machine

namespace Machine

/-! ### The field inverse is the only inverse -/

/-- An inverse is unique: two of them are both the product of the three (41_sbox.md R141). -/
theorem eq_of_gmul_eq_one {x y z : Byte} (hy : gmul x y = 1#8) (hz : gmul x z = 1#8) : y = z := by
  calc y
    _ = gmul y (gmul x z) := by rw [hz, gmul_one]
    _ = gmul (gmul x y) z := by rw [← gmul_assoc, gmul_comm y]
    _ = z := by rw [hy, one_gmul]

/-- 0 has no inverse (40_gf_arith.md R123). -/
theorem ne_zero_of_gmul_eq_one {x y : Byte} (h : gmul x y = 1#8) : x ≠ 0#8 := by
  rintro rfl
  rw [zero_gmul] at h
  exact absurd h (by decide)

/-- Whatever multiplies a byte to 1 is what `fieldInverse` gives. -/
theorem eq_fieldInverse_of_gmul_eq_one {x y : Byte} (h : gmul x y = 1#8) : y = fieldInverse x :=
  eq_of_gmul_eq_one h (gmul_fieldInverse x (ne_zero_of_gmul_eq_one h))

/-! ### The two tables undo each other -/

/-- 41_sbox.md R143 in the first order, checked entry by entry. -/
theorem invSbox_leftInverse_sbox : Function.LeftInverse invSbox sbox := by
  unfold Function.LeftInverse
  decide

/-- 41_sbox.md R143 in the second order: an injective map of the 256 bytes reaches all of them. -/
theorem invSbox_rightInverse_sbox : Function.RightInverse invSbox sbox :=
  invSbox_leftInverse_sbox.rightInverse_of_surjective
    (Finite.surjective_of_injective invSbox_leftInverse_sbox.injective)

/-- No fixed point (41_sbox.md R143), checked entry by entry. -/
theorem sbox_ne_self : ∀ x : Byte, sbox x ≠ x := by
  decide

/-- No complemented fixed point (41_sbox.md R143), checked entry by entry. -/
theorem sbox_ne_complement : ∀ x : Byte, sbox x ≠ x ^^^ 0xFF := by
  decide

end Machine

/-! ### SBOX is the affine map of the field inverse -/

namespace Claims

/-- The affine map undoes the map by which `fieldInverse` is read off SBOX: as polynomials in the rotation by one, modulo x^8 + 1,
(1 + x + x^2 + x^3 + x^4)(x + x^3 + x^6) = 1. -/
theorem affine_rotations : ∀ b : Byte, affine (b.rotateLeft 1 ^^^ b.rotateLeft 3 ^^^ b.rotateLeft 6 ^^^ 0x05) = b := by
  decide

theorem affine_fieldInverse (x : Byte) : affine (fieldInverse x) = sbox x :=
  affine_rotations (sbox x)

end Claims

open Claims

/-! ### The statement -/

/-- Settles O35: inverses are unique, so the affine map of an inverse is that of `fieldInverse`, which is SBOX. -/
theorem substitutionTables : Obligations.SubstitutionTables := by
  refine ⟨by decide, ?affine, fun x hx => ⟨fieldInverse x, gmul_fieldInverse x hx⟩, fun _ _ _ => eq_of_gmul_eq_one,
    invSbox_leftInverse_sbox, invSbox_rightInverse_sbox, sbox_ne_self, sbox_ne_complement⟩
  case affine =>
    intro x y h
    rw [eq_fieldInverse_of_gmul_eq_one h, affine_fieldInverse]

end Sys2Proof

/-! PROOFS of the statements of 42_key_expander.md: the word functions and the round constants (R151 to R154), the recurrence of the
schedule (R155), and the four commands ROTW, SUBW, RCON and KEXP (R157 to R160). -/

namespace Sys2Proof

open Claims

namespace Machine

/-! ### The word functions, byte by byte -/

/-- The bytes of a word put together from a function on the byte positions. -/
theorem byteAt_wordOf_fun (f : Fin 4 → Byte) (k : Fin 4) : byteAt (wordOf (f 0) (f 1) (f 2) (f 3)) k = f k :=
  (byteAt_wordOf (Quad.ofFn f) k).trans (Quad.get_ofFn f k)

/-- 42_key_expander.md R151: the byte at position k comes from position k+1. -/
@[simp] theorem byteAt_rotWord (w : Word) (k : Fin 4) : byteAt (rotWord w) k = byteAt w (k + 1) :=
  byteAt_wordOf_fun (fun k => byteAt w (k + 1)) k

@[simp] theorem byteAt_subWord (w : Word) (k : Fin 4) : byteAt (subWord w) k = sbox (byteAt w k) :=
  byteAt_wordOf_fun (fun k => sbox (byteAt w k)) k

@[simp] theorem byteAt_xor (v w : Word) (k : Fin 4) : byteAt (v ^^^ w) k = byteAt v k ^^^ byteAt w k :=
  BitVec.extractLsb'_xor

/-- An extended byte stands in byte position 0, with zeros above it. -/
theorem zext32_eq_wordOf (b : Byte) : zext32 b = wordOf b 0x00 0x00 0x00 := by
  simp [zext32, wordOf]

@[simp] theorem byteAt_zext32 (b : Byte) (k : Fin 4) : byteAt (zext32 b) k = if k = 0 then b else 0x00 := by
  rw [zext32_eq_wordOf]
  exact byteAt_wordOf_fun (fun k => if k = 0 then b else 0x00) k

theorem zext32_toNat (b : Byte) : (zext32 b).toNat = b.toNat :=
  BitVec.toNat_setWidth_of_le (by decide)

/-- 42_key_expander.md R151 as shifts: bit i comes from bit i+8, and the top byte from the lowest. -/
theorem rotWord_eq_shifts (w : Word) : rotWord w = (w >>> 8) ||| (w <<< 24) := by
  ext i hi
  simp only [rotWord, byteAt, wordOf, BitVec.getElem_or, BitVec.getElem_setWidth, BitVec.getElem_shiftLeft,
    BitVec.getElem_ushiftRight, BitVec.getLsbD_extractLsb']
  interval_cases i <;> simp

theorem subWord_rotWord (w : Word) : subWord (rotWord w) = rotWord (subWord w) :=
  word_ext_bytes fun k => by simp

/-- Four rotations restore the word: each byte comes back to its position (42_key_expander.md R157). -/
theorem rotWord_four (w : Word) : rotWord (rotWord (rotWord (rotWord w))) = w :=
  word_ext_bytes fun k => by
    have four_positions : k + 1 + 1 + 1 + 1 = k := by revert k; decide
    simp only [byteAt_rotWord, four_positions]

theorem rotWord_wordOf (b0 b1 b2 b3 : Byte) : rotWord (wordOf b0 b1 b2 b3) = wordOf b1 b2 b3 b0 := by
  rw [rotWord, byteAt_wordOf_0, byteAt_wordOf_1, byteAt_wordOf_2, byteAt_wordOf_3]

/-! ### The schedule -/

/-- The schedule as the list that `scheduleFrom_recurrence` speaks of. -/
theorem getElem?_schedule (k : Quad Word) (i : Nat) :
    (k.a0 :: k.a1 :: k.a2 :: k.a3 :: scheduleFrom 40 4 k.a0 k.a1 k.a2 k.a3)[i]? = (expandKey k)[i]? := by
  simp [expandKey]

/-- The recurrence of 42_key_expander.md R155, in terms of `temp`. -/
theorem expandKey_recurrence (k : Quad Word) (i : Nat) (h : 4 ≤ i ∧ i < 44) :
    (expandKey k)[i] = (expandKey k)[i - 4] ^^^ scheduleTemp i (expandKey k)[i - 1] := by
  obtain ⟨j, rfl⟩ : ∃ j, i = j + 4 := ⟨i - 4, by omega⟩
  have hrec := scheduleFrom_recurrence 40 4 k.a0 k.a1 k.a2 k.a3 j (by omega)
  simp only [getElem?_schedule, Nat.add_comm 4 j] at hrec
  have hj : j < 44 := by omega
  have hj3 : j + 3 < 44 := by omega
  simpa [h.2, hj, hj3] using hrec

theorem scheduleTemp_between {i : Nat} (h : i % 4 ≠ 0) (prev : Word) : scheduleTemp i prev = prev :=
  if_neg h

theorem scheduleTemp_first {i : Nat} (h : i % 4 = 0) (hi : i / 4 - 1 < 10) (prev : Word) :
    scheduleTemp i prev = subWord (rotWord prev) ^^^ rconWord ⟨i / 4 - 1, hi⟩ := by
  rw [scheduleTemp, if_pos h, dif_pos hi]

/-- The words of the key come first (42_key_expander.md R155). -/
theorem expandKey_key (k : Quad Word) (j : Fin 4) : (expandKey k)[j.val]'(by omega) = k.get j := by
  fin_cases j <;> rfl

/-! ### The command RCON -/

/-- The word of RCON r (30_encoding.md R94), for every r in range. -/
theorem decode_rcon : ∀ r : BitVec 4, r.toNat ≤ 9 → decode (0x00000022 + r.setWidth 32 * 0x100) = .ok (.rcon r) := by
  decide

/-- RCON from a given WREG. -/
theorem exec_rcon_of_wreg {s : State} {v u : Word} {r : BitVec 4} (hs : s.wreg = v) (hr : r.toNat < 10)
    (hu : v ^^^ rconWord ⟨r.toNat, hr⟩ = u) : ∃ t, exec (.rcon r) s = .next t ∧ t.wreg = u :=
  ⟨_, exec_rcon s r hr, by rw [← hu, ← hs, complete_wreg]⟩

theorem xor_zext32_shiftRight_eight (w : Word) (b : Byte) : (w ^^^ zext32 b) >>> 8 = w >>> 8 := by
  rw [BitVec.ushiftRight_xor_distrib, zext32_shiftRight_eight, show (0 : Word) = 0#32 from rfl, BitVec.xor_zero]

end Machine

open Machine

/-! ### The statements -/

/-- Settles O36, byte by byte. -/
theorem keyExpanderWordFunctions : Obligations.KeyExpanderWordFunctions := by
  refine ⟨rotWord_eq_shifts, byteAt_rotWord, byteAt_subWord, subWord_rotWord, by decide, by decide,
    fun r => ⟨zext32_eq_wordOf _, zext32_toNat _⟩, fun w r k => ?_⟩
  rw [byteAt_xor, rconWord, byteAt_zext32]

/-- Settles O37, from the recurrence of the schedule words (`expandKey_recurrence`) and the two cases of `temp`. -/
theorem expandKeyRecurrence : Obligations.ExpandKeyRecurrence := by
  intro k
  refine ⟨expandKey_key k, fun i h hi => ?between, fun i h hi => ?first⟩
  case between => rw [expandKey_recurrence k i h, scheduleTemp_between hi]
  case first => rw [expandKey_recurrence k i h, scheduleTemp_first hi]

/-- Settles O44, from the commit of KEXP (`exec_kexp`); the examples are computed. -/
theorem kexpExpandsTheKey : Obligations.KexpExpandsTheKey := by
  refine ⟨?rule, by decide, by decide, by decide, ?again, ?locked⟩
  case rule => exact commandRule_of_exec (by decide) (fun _ => immediate_le_zero (by decide) (by decide)) exec_kexp
  case again => exact fun s => ⟨_, _, exec_kexp s, exec_kexp _, rfl⟩
  case locked =>
    intro s v j hp
    have busy : s.pending ≠ none := by simp [hp]
    exact ⟨_, hostWrite_offset (.key j) v s, by rw [writeReg, writeUnlessBusy_busy _ busy]⟩

/-- Settles O52, from the commit of ROTW (`exec_rotw`) and the bytes of a rotated word. -/
theorem rotwRotatesWreg : Obligations.RotwRotatesWreg := by
  refine ⟨?rule, rotWord_four, fun b => rotWord_wordOf b b b b, ?sample⟩
  case rule => exact commandRule_of_exec (by decide) (fun _ => immediate_le_zero (by decide) (by decide)) exec_rotw
  case sample =>
    intro s hs
    refine ⟨_, exec_rotw s, ?_⟩
    simp only [complete_wreg, hs]
    decide

/-- Settles O53, from the commit of SUBW (`exec_subw`). -/
theorem subwSubstitutesWreg : Obligations.SubwSubstitutesWreg := by
  refine ⟨?rule, by decide, by decide, ?sample⟩
  case rule => exact commandRule_of_exec (by decide) (fun _ => immediate_le_zero (by decide) (by decide)) exec_subw
  case sample =>
    intro s hs
    refine ⟨_, exec_subw s, ?_⟩
    simp only [complete_wreg, hs]
    decide

/-- Settles O54, from the commit of RCON (`exec_rcon`). -/
theorem rconXorsTheRoundConstant : Obligations.RconXorsTheRoundConstant := by
  refine ⟨fun r hr => ⟨?rule, ?twice⟩, fun s hs => exec_rcon_of_wreg hs (by decide) (by decide),
    fun s hs => exec_rcon_of_wreg hs (by decide) (by decide), fun s hs => exec_rcon_of_wreg hs (by decide) (by decide)⟩
  case rule =>
    exact commandRule_of_exec (decode_rcon r hr) (fun _ ⟨_, _, himm, _⟩ => himm rfl) fun s => exec_rcon s r (by omega)
  case twice =>
    intro s
    have hr' : r.toNat < 10 := by omega
    refine ⟨_, _, exec_rcon s r hr', exec_rcon _ r hr', ?restored, xor_zext32_shiftRight_eight _ _⟩
    simp only [complete_wreg, BitVec.xor_assoc, BitVec.xor_self, BitVec.xor_zero]

end Sys2Proof

/-! PROOFS of the statements of 43_state_transforms.md: the state functions cell by cell (R181 to R187), their laws (R189), and the
seven commands SUBB, SHR, MIXC, ARK, ISUBB, ISHR and IMIXC (R190 to R196). -/

namespace Sys2Proof

open Claims

namespace Machine

/-! ### The state functions, cell by cell -/

@[simp] theorem cell_subBytes (m : StateMatrix) (r c : Fin 4) : cell (subBytes m) r c = sbox (cell m r c) :=
  cell_matrixOf _ r c

@[simp] theorem cell_invSubBytes (m : StateMatrix) (r c : Fin 4) : cell (invSubBytes m) r c = invSbox (cell m r c) :=
  cell_matrixOf _ r c

@[simp] theorem cell_shiftRows (m : StateMatrix) (r c : Fin 4) : cell (shiftRows m) r c = cell m r (r + c) :=
  cell_matrixOf _ r c

@[simp] theorem cell_invShiftRows (m : StateMatrix) (r c : Fin 4) : cell (invShiftRows m) r c = cell m r (c - r) :=
  cell_matrixOf _ r c

@[simp] theorem cell_addRoundKey (m : StateMatrix) (w : Vector Word 44) (rnd : Fin 11) (r c : Fin 4) :
    cell (addRoundKey m w rnd) r c = cell m r c ^^^ byteAt (roundKeyWord w rnd c) r :=
  cell_matrixOf _ r c

@[simp] theorem column_mixColumns (m : StateMatrix) (c : Fin 4) : column (mixColumns m) c = mixColumn (column m c) :=
  Quad.ext_get fun r => by rw [get_column, mixColumns, cell_matrixOf]

@[simp] theorem column_invMixColumns (m : StateMatrix) (c : Fin 4) :
    column (invMixColumns m) c = invMixColumn (column m c) :=
  Quad.ext_get fun r => by rw [get_column, invMixColumns, cell_matrixOf]

/-- Two state matrices with the same columns are the same. -/
theorem matrix_ext_column {m n : StateMatrix} (h : ∀ c, column m c = column n c) : m = n :=
  matrix_ext fun r c => by rw [← get_column, h c, get_column]

/-! ### Columns times a circulant matrix -/

/-- The column whose element r is k0·s_r + k1·s_(r+1) + k2·s_(r+2) + k3·s_(r+3), rows mod 4: the general form that
43_state_transforms.md R185 and R186 give, with the first row k of the matrix. -/
def circulant (k s : Quad Byte) : Quad Byte :=
  Quad.ofFn fun r =>
    gmul k.a0 (s.get r) ^^^ gmul k.a1 (s.get (r + 1)) ^^^ gmul k.a2 (s.get (r + 2)) ^^^ gmul k.a3 (s.get (r + 3))

/-- The first row of the product of two circulant matrices: the product of polynomials modulo y^4 - 1. -/
def circulantProduct (k l : Quad Byte) : Quad Byte where
  a0 := gmul k.a0 l.a0 ^^^ gmul k.a1 l.a3 ^^^ gmul k.a2 l.a2 ^^^ gmul k.a3 l.a1
  a1 := gmul k.a0 l.a1 ^^^ gmul k.a1 l.a0 ^^^ gmul k.a2 l.a3 ^^^ gmul k.a3 l.a2
  a2 := gmul k.a0 l.a2 ^^^ gmul k.a1 l.a1 ^^^ gmul k.a2 l.a0 ^^^ gmul k.a3 l.a3
  a3 := gmul k.a0 l.a3 ^^^ gmul k.a1 l.a2 ^^^ gmul k.a2 l.a1 ^^^ gmul k.a3 l.a0

/-- The first row of MixColumns (43_state_transforms.md R185). -/
def mixRow : Quad Byte := ⟨2, 3, 1, 1⟩

/-- The first row of InvMixColumns (43_state_transforms.md R186). -/
def invMixRow : Quad Byte := ⟨14, 11, 13, 9⟩

/-- The four rows of the matrix, each the one above it shifted by one place. -/
theorem circulant_eq_rows (k s : Quad Byte) : circulant k s =
    ⟨gmul k.a0 s.a0 ^^^ gmul k.a1 s.a1 ^^^ gmul k.a2 s.a2 ^^^ gmul k.a3 s.a3,
      gmul k.a0 s.a1 ^^^ gmul k.a1 s.a2 ^^^ gmul k.a2 s.a3 ^^^ gmul k.a3 s.a0,
      gmul k.a0 s.a2 ^^^ gmul k.a1 s.a3 ^^^ gmul k.a2 s.a0 ^^^ gmul k.a3 s.a1,
      gmul k.a0 s.a3 ^^^ gmul k.a1 s.a0 ^^^ gmul k.a2 s.a1 ^^^ gmul k.a3 s.a2⟩ := rfl

theorem mixColumn_eq_circulant (s : Quad Byte) : mixColumn s = circulant mixRow s := by
  simp only [mixColumn, circulant_eq_rows, mixRow, BitVec.ofNat_eq_ofNat, one_gmul]
  ac_rfl

theorem invMixColumn_eq_circulant (s : Quad Byte) : invMixColumn s = circulant invMixRow s := by
  simp only [invMixColumn, circulant_eq_rows, invMixRow]
  ac_rfl

/-- Two circulant matrices after one another are their product: both sides are the sum of the same sixteen products. -/
theorem circulant_circulant (k l s : Quad Byte) : circulant k (circulant l s) = circulant (circulantProduct k l) s := by
  apply Quad.ext_get
  intro r
  simp only [circulant, circulantProduct, Quad.get_ofFn, gmul_xor_left, gmul_xor_right, gmul_assoc, add_assoc,
    Fin.isValue, Fin.reduceAdd, add_zero]
  ac_rfl

theorem circulant_one (s : Quad Byte) : circulant ⟨1, 0, 0, 0⟩ s = s :=
  Quad.ext_get fun r => by simp [circulant]

/-- A column of four equal bytes is multiplied by the sum of the matrix's row. -/
theorem circulant_all (k : Quad Byte) (b : Byte) :
    circulant k (Quad.all b) = Quad.all (gmul (k.a0 ^^^ k.a1 ^^^ k.a2 ^^^ k.a3) b) :=
  Quad.ext_get fun r => by simp [circulant, gmul_xor_left]

theorem invMixColumn_mixColumn (s : Quad Byte) : invMixColumn (mixColumn s) = s := by
  have inverse : circulantProduct invMixRow mixRow = ⟨1, 0, 0, 0⟩ := by decide
  rw [mixColumn_eq_circulant, invMixColumn_eq_circulant, circulant_circulant, inverse, circulant_one]

theorem mixColumn_invMixColumn (s : Quad Byte) : mixColumn (invMixColumn s) = s := by
  have inverse : circulantProduct mixRow invMixRow = ⟨1, 0, 0, 0⟩ := by decide
  rw [invMixColumn_eq_circulant, mixColumn_eq_circulant, circulant_circulant, inverse, circulant_one]

/-- The row of MixColumns sums to 1 (43_state_transforms.md R192). -/
theorem mixColumn_all (b : Byte) : mixColumn (Quad.all b) = Quad.all b := by
  have sum : mixRow.a0 ^^^ mixRow.a1 ^^^ mixRow.a2 ^^^ mixRow.a3 = 1 := by decide
  rw [mixColumn_eq_circulant, circulant_all, sum]
  exact congrArg Quad.all (one_gmul b)

theorem invMixColumn_all (b : Byte) : invMixColumn (Quad.all b) = Quad.all b := by
  calc invMixColumn (Quad.all b)
    _ = invMixColumn (mixColumn (Quad.all b)) := by rw [mixColumn_all]
    _ = Quad.all b := invMixColumn_mixColumn _

theorem cell_mixColumns (m : StateMatrix) (r c : Fin 4) : cell (mixColumns m) r c =
    gmul 2 (cell m r c) ^^^ gmul 3 (cell m (r + 1) c) ^^^ cell m (r + 2) c ^^^ cell m (r + 3) c := by
  rw [← get_column, column_mixColumns, mixColumn_eq_circulant]
  simp [circulant, mixRow]

theorem cell_invMixColumns (m : StateMatrix) (r c : Fin 4) : cell (invMixColumns m) r c =
    gmul 0x0E (cell m r c) ^^^ gmul 0x0B (cell m (r + 1) c) ^^^ gmul 0x0D (cell m (r + 2) c) ^^^
      gmul 0x09 (cell m (r + 3) c) := by
  rw [← get_column, column_invMixColumns, invMixColumn_eq_circulant]
  simp [circulant, invMixRow]

/-! ### The laws of 43_state_transforms.md R189 -/

variable (m : StateMatrix)

theorem invShiftRows_shiftRows : invShiftRows (shiftRows m) = m :=
  matrix_ext fun r c => by simp

theorem shiftRows_invShiftRows : shiftRows (invShiftRows m) = m :=
  matrix_ext fun r c => by simp

theorem invSubBytes_subBytes : invSubBytes (subBytes m) = m :=
  matrix_ext fun r c => by rw [cell_invSubBytes, cell_subBytes, invSbox_leftInverse_sbox]

theorem subBytes_invSubBytes : subBytes (invSubBytes m) = m :=
  matrix_ext fun r c => by rw [cell_subBytes, cell_invSubBytes, invSbox_rightInverse_sbox]

theorem invMixColumns_mixColumns : invMixColumns (mixColumns m) = m :=
  matrix_ext_column fun c => by rw [column_invMixColumns, column_mixColumns, invMixColumn_mixColumn]

theorem mixColumns_invMixColumns : mixColumns (invMixColumns m) = m :=
  matrix_ext_column fun c => by rw [column_mixColumns, column_invMixColumns, mixColumn_invMixColumn]

/-- The round key cancels against itself (43_state_transforms.md R187). -/
theorem addRoundKey_addRoundKey (w : Vector Word 44) (rnd : Fin 11) : addRoundKey (addRoundKey m w rnd) w rnd = m :=
  matrix_ext fun r c => by simp

theorem subBytes_shiftRows : subBytes (shiftRows m) = shiftRows (subBytes m) :=
  matrix_ext fun r c => by simp

theorem subBytes_invShiftRows : subBytes (invShiftRows m) = invShiftRows (subBytes m) :=
  matrix_ext fun r c => by simp

theorem invSubBytes_shiftRows : invSubBytes (shiftRows m) = shiftRows (invSubBytes m) :=
  matrix_ext fun r c => by simp

theorem invSubBytes_invShiftRows : invSubBytes (invShiftRows m) = invShiftRows (invSubBytes m) :=
  matrix_ext fun r c => by simp

/-! ### Several row shifts -/

/-- A row comes back after four shifts, so three of them are one shift back (43_state_transforms.md R195). -/
theorem shiftRows_three : shiftRows (shiftRows (shiftRows m)) = invShiftRows m :=
  matrix_ext fun r c => by
    have three_positions : r + (r + (r + c)) = c - r := by revert r c; decide
    simp only [cell_shiftRows, cell_invShiftRows, three_positions]

/-- Row 0 is not moved (43_state_transforms.md R183). -/
theorem shiftRows_row_zero : (shiftRows m).a0 = m.a0 := rfl

theorem invShiftRows_row_zero : (invShiftRows m).a0 = m.a0 := rfl

/-- A row of four equal bytes is not changed by a shift (43_state_transforms.md R191). -/
theorem shiftRows_constant_rows (x : Quad Byte) :
    shiftRows (matrixOf fun r _ => x.get r) = matrixOf fun r _ => x.get r :=
  matrix_ext fun r c => by simp

/-! ### Round keys -/

/-- On the all-zero state a round key is left as it is, and the serialized columns are its words (43_state_transforms.md R193). -/
theorem regsOfMatrix_addRoundKey_zero (w : Vector Word 44) (rnd : Fin 11) (c : Fin 4) :
    (regsOfMatrix (addRoundKey (matrixOf fun _ _ => 0x00) w rnd)).get c = roundKeyWord w rnd c := by
  simp [regsOfMatrix]

/-- The word of ARK rnd (30_encoding.md R94), for every rnd in range. -/
theorem decode_ark : ∀ rnd : BitVec 4, rnd.toNat ≤ 10 → decode (0x00000013 + rnd.setWidth 32 * 0x100) = .ok (.ark rnd) := by
  decide

/-- KV changes only by a commit, by reset, or by a KEY write on an idle block (10_state.md R28). -/
theorem step_keeps_kv_while_busy {s t : State} (h : step s = .next t) (hbusy : s.pending ≠ none)
    (hengine : nextEvent s ≠ .engine) (hreset : nextEvent s ≠ .reset) : t.kv = s.kv := by
  obtain ⟨-, -, hkv⟩ | ⟨he, -⟩ | ⟨he | ⟨he, -⟩ | ⟨hidle, -⟩, -⟩ := step_keySchedule_cases h
  · exact hkv
  · exact absurd he hengine
  · exact absurd he hreset
  · exact absurd he hengine
  · exact absurd hidle hbusy

end Machine

open Machine

/-! ### A command without an immediate -/

/-- `commandRule_of_exec` for a command whose IMM must be 0 (30_encoding.md R92). -/
theorem commandRule_without_immediate {i : Instr} {word : Word} {effect : State → State} (hdecode : decode word = .ok i)
    (hark : i.opcode.toNat ≠ 0x13) (hrcon : i.opcode.toNat ≠ 0x22)
    (hexec : ∀ s, exec i s = .next (complete (effect s))) : CommandRule i word 0 effect :=
  commandRule_of_exec hdecode (fun _ => immediate_le_zero hark hrcon) hexec

/-! ### The statements -/

/-- Settles O38, from the cell of each function and `addRoundKey_addRoundKey`. -/
theorem byteAndRowTransformsCellByCell : Obligations.ByteAndRowTransformsCellByCell := by
  intro m
  refine ⟨cell_subBytes m, cell_invSubBytes m, fun r c => ⟨r + c, Fin.val_add r c, cell_shiftRows m r c⟩,
    fun r c => ⟨c - r, ?column, cell_invShiftRows m r c⟩, rfl, rfl, rfl, rfl, cell_addRoundKey m, addRoundKey_addRoundKey m⟩
  case column => revert r c; decide

/-- Settles O39: both functions are circulant matrices, and the product of the two is the identity. -/
theorem mixColumnsCellByCell : Obligations.MixColumnsCellByCell :=
  ⟨invMixColumns_mixColumns, fun m r c => ⟨cell_mixColumns m r c, cell_invMixColumns m r c⟩⟩

/-- Settles O40, law by law. -/
theorem stateTransformLaws : Obligations.StateTransformLaws := fun m =>
  ⟨invShiftRows_shiftRows m, shiftRows_invShiftRows m, invMixColumns_mixColumns m, mixColumns_invMixColumns m,
    invSubBytes_subBytes m, subBytes_invSubBytes m, addRoundKey_addRoundKey m, subBytes_shiftRows m,
    subBytes_invShiftRows m, invSubBytes_shiftRows m, invSubBytes_invShiftRows m⟩

/-- Settles O48, from the commits of SUBB and ISUBB and the laws of the tables; the corner states and examples are computed. -/
theorem subbAndIsubbSubstituteBytes : Obligations.SubbAndIsubbSubstituteBytes := by
  refine ⟨?subb, ?isubb, fun s => ⟨_, _, exec_subb s, exec_isubb _, invSubBytes_subBytes s.sMat⟩,
    fun s => ⟨_, _, exec_isubb s, exec_subb _, subBytes_invSubBytes s.sMat⟩, by decide, by decide, ?moved, by decide,
    by decide, by decide, by decide⟩
  case subb => exact commandRule_without_immediate (by decide) (by decide) (by decide) exec_subb
  case isubb => exact commandRule_without_immediate (by decide) (by decide) (by decide) exec_isubb
  case moved =>
    intro m r c
    rw [cell_subBytes]
    exact sbox_ne_self _

/-- Settles O49, from the commits of SHR and ISHR and the laws of the row shifts; the examples are computed. -/
theorem shrAndIshrShiftRows : Obligations.ShrAndIshrShiftRows := by
  refine ⟨?shr, ?ishr, fun s => ⟨_, _, exec_shr s, exec_ishr _, invShiftRows_shiftRows s.sMat⟩, ?shifts,
    shiftRows_constant_rows, by decide, by decide⟩
  case shr => exact commandRule_without_immediate (by decide) (by decide) (by decide) exec_shr
  case ishr => exact commandRule_without_immediate (by decide) (by decide) (by decide) exec_ishr
  case shifts =>
    intro m
    refine ⟨shiftRows_three m, ?four, shiftRows_row_zero m, invShiftRows_row_zero m⟩
    rw [shiftRows_three, invShiftRows_shiftRows]

/-- Settles O50, from the commits of MIXC and IMIXC and the laws of the column functions; the examples are computed. -/
theorem mixcAndImixcMixColumns : Obligations.MixcAndImixcMixColumns := by
  refine ⟨?mixc, ?imixc, fun s => ⟨_, _, exec_mixc s, exec_imixc _, invMixColumns_mixColumns s.sMat⟩,
    fun b => ⟨mixColumn_all b, invMixColumn_all b⟩, fun m c => ⟨column_mixColumns m c, column_invMixColumns m c⟩,
    by decide, by decide, by decide, by decide⟩
  case mixc => exact commandRule_without_immediate (by decide) (by decide) (by decide) exec_mixc
  case imixc => exact commandRule_without_immediate (by decide) (by decide) (by decide) exec_imixc

/-- Settles O51, from the commit of ARK (`exec_ark`), everything a step can do to KV, and the promise of KV in a good state. -/
theorem arkAddsTheRoundKey : Obligations.ArkAddsTheRoundKey := by
  refine ⟨fun rnd hrnd => ⟨?rule, fun s => ark_refused_without_key hrnd, ?twice, ?pending, ?readout⟩, ?keyWords, ?sample⟩
  case rule =>
    exact commandRule_of_exec (decode_ark rnd hrnd) (fun _ ⟨_, himm, _⟩ => himm rfl) fun s => exec_ark s rnd (by omega)
  case twice =>
    intro s
    have hr : rnd.toNat < 11 := by omega
    exact ⟨_, _, exec_ark s rnd hr, exec_ark _ rnd hr, addRoundKey_addRoundKey s.sMat s.wRam _⟩
  case pending =>
    intro s t hp hengine hreset h
    exact step_keeps_kv_while_busy h (by simp [hp]) hengine hreset
  case readout =>
    intro s hs
    refine ⟨_, _, exec_ark s rnd (by omega), exec_stores _, fun c => ?_⟩
    simp only [complete_dout, complete_sMat, hs]
    exact regsOfMatrix_addRoundKey_zero s.wRam _ c
  case keyWords =>
    intro s hgood hkv c
    rw [hgood.scheduleOfKey hkv]
    exact expandKey_key s.key c
  case sample =>
    intro s hw hs
    refine ⟨_, exec_ark s 0 (by decide), ?_⟩
    simp only [complete_sMat, hw, hs]
    decide

end Sys2Proof

/-! PROOFS of the statements of 44_cipher_driver.md: the commands ENC and DEC (R223, R224) with the rounds of R220 and R221 as a chain of
states, and the round trip (R225). -/

namespace Sys2Proof

namespace Machine

/-! ### Blocks, state matrices and the data registers -/

@[simp] theorem laneOf_blockIndex (r c : Fin 4) : laneOf (blockIndex r c) = r := by
  ext
  simp only [laneOf, blockIndex]
  omega

@[simp] theorem wordIndexOf_blockIndex (r c : Fin 4) : wordIndexOf (blockIndex r c) = c := by
  ext
  simp only [wordIndexOf, blockIndex]
  omega

/-- Every index of a block is that of one cell (45_serialization.md R241). -/
@[simp] theorem blockIndex_laneOf_wordIndexOf (i : Fin 16) : blockIndex (laneOf i) (wordIndexOf i) = i := by
  ext
  simp only [laneOf, wordIndexOf, blockIndex]
  omega

theorem cell_deserialize (b : Vector Byte 16) (r c : Fin 4) : cell (deserialize b) r c = b[blockIndex r c] :=
  cell_matrixOf _ r c

theorem getElem_serialize (m : StateMatrix) (i : Fin 16) : (serialize m)[i] = cell m (laneOf i) (wordIndexOf i) :=
  Vector.getElem_ofFn i.isLt

theorem getElem_blockOfRegs (regs : Quad Word) (i : Fin 16) :
    (blockOfRegs regs)[i] = byteAt (regs.get (wordIndexOf i)) (laneOf i) :=
  Vector.getElem_ofFn i.isLt

@[simp] theorem byteAt_regsOfMatrix (m : StateMatrix) (r c : Fin 4) : byteAt ((regsOfMatrix m).get c) r = cell m r c := by
  rw [regsOfMatrix, Quad.get_ofFn]
  exact byteAt_wordOf_fun (fun r => cell m r c) r

/-- Two blocks with the same bytes are the same. -/
theorem block_ext {a b : Vector Byte 16} (h : ∀ i : Fin 16, a[i] = b[i]) : a = b :=
  Vector.ext fun i hi => h ⟨i, hi⟩

/-- Two groups of four registers with the same bytes are the same. -/
theorem regs_ext_bytes {p q : Quad Word} (h : ∀ r c, byteAt (p.get c) r = byteAt (q.get c) r) : p = q :=
  Quad.ext_get fun c => word_ext_bytes fun r => h r c

@[simp] theorem deserialize_serialize (m : StateMatrix) : deserialize (serialize m) = m :=
  matrix_ext fun r c => by rw [cell_deserialize, getElem_serialize, laneOf_blockIndex, wordIndexOf_blockIndex]

@[simp] theorem serialize_deserialize (b : Vector Byte 16) : serialize (deserialize b) = b :=
  block_ext fun i => by simp only [getElem_serialize, cell_deserialize, blockIndex_laneOf_wordIndexOf]

/-- Four registers holding the columns of a state matrix hold its block (20_memory.md R65). -/
@[simp] theorem blockOfRegs_regsOfMatrix (m : StateMatrix) : blockOfRegs (regsOfMatrix m) = serialize m :=
  block_ext fun i => by rw [getElem_blockOfRegs, byteAt_regsOfMatrix, getElem_serialize]

@[simp] theorem regsOfMatrix_deserialize_blockOfRegs (regs : Quad Word) :
    regsOfMatrix (deserialize (blockOfRegs regs)) = regs :=
  regs_ext_bytes fun r c => by
    rw [byteAt_regsOfMatrix, cell_deserialize, getElem_blockOfRegs, laneOf_blockIndex, wordIndexOf_blockIndex]

/-! ### The round trip of the rounds -/

/-- 44_cipher_driver.md R225: a round of the inverse cipher undoes a round of the cipher of the same index, between the row
shifts of the one and the next. -/
theorem decRound_encRound (w : Vector Word 44) (m : StateMatrix) (rnd : Fin 11) :
    decRound w (shiftRows (subBytes (encRound w m rnd))) rnd = shiftRows (subBytes m) := by
  rw [decRound, invShiftRows_shiftRows, invSubBytes_subBytes, encRound, addRoundKey_addRoundKey, invMixColumns_mixColumns]

/-- The same for any list of rounds, undone in the reverse order. -/
theorem foldl_decRound_foldl_encRound (w : Vector Word 44) (rnds : List (Fin 11)) (m : StateMatrix) :
    rnds.reverse.foldl (decRound w) (shiftRows (subBytes (rnds.foldl (encRound w) m))) = shiftRows (subBytes m) := by
  induction rnds generalizing m with
  | nil => rfl
  | cons rnd rnds ih =>
    rw [List.foldl_cons, List.reverse_cons, List.foldl_append, ih, List.foldl_cons, List.foldl_nil, decRound_encRound]

/-- 44_cipher_driver.md R225 on state matrices, for every schedule. -/
theorem decRounds_encRounds (w : Vector Word 44) (m : StateMatrix) : decRounds w (encRounds w m) = m := by
  have reversed : ([9, 8, 7, 6, 5, 4, 3, 2, 1] : List (Fin 11)) = [1, 2, 3, 4, 5, 6, 7, 8, 9].reverse := rfl
  simp only [decRounds, encRounds, addRoundKey_addRoundKey, reversed, foldl_decRound_foldl_encRound, invShiftRows_shiftRows,
    invSubBytes_subBytes]

theorem invCipher_cipher (b : Vector Byte 16) (k : Quad Word) : invCipher (cipher b k) k = b := by
  rw [invCipher, cipher, deserialize_serialize, decRounds_encRounds, serialize_deserialize]

/-- 44_cipher_driver.md R225 on the data registers. -/
theorem regsOfMatrix_decRounds_encRounds (w : Vector Word 44) (regs : Quad Word) :
    regsOfMatrix (decRounds w (deserialize (blockOfRegs (regsOfMatrix (encRounds w (deserialize (blockOfRegs regs)))))))
      = regs := by
  rw [blockOfRegs_regsOfMatrix, deserialize_serialize, decRounds_encRounds, regsOfMatrix_deserialize_blockOfRegs]

/-! ### The rounds as a chain of states -/

/-- A fold over `n` rounds goes through `n + 1` states, each made from the one before it by its round. -/
theorem exists_states_of_foldl {α β : Type} (f : α → β → α) (start : α) {n : Nat} (rnd : Fin n → β) :
    ∃ x : Fin (n + 1) → α, x 0 = start ∧ (∀ i : Fin n, x i.succ = f (x i.castSucc) (rnd i)) ∧
      (List.ofFn rnd).foldl f start = x (Fin.last n) := by
  refine ⟨fun i => ((List.ofFn rnd).take i).foldl f start, rfl, fun i => ?next, ?last⟩
  case next =>
    have hi : i.val < (List.ofFn rnd).length := by simp
    simp only [Fin.val_succ, Fin.val_castSucc]
    rw [← List.take_append_getElem hi, List.foldl_append, List.getElem_ofFn, List.foldl_cons, List.foldl_nil]
  case last =>
    have all : (List.ofFn rnd).length ≤ (Fin.last n).val := by simp
    simp only [List.take_of_length_le all]

/-! ### The two drivers in the registers -/

variable (rounds : Vector Word 44 → StateMatrix → StateMatrix) (s : State)

@[simp] theorem runRounds_sMat : (runRounds rounds s).sMat = rounds s.wRam (deserialize (blockOfRegs s.din)) := rfl

@[simp] theorem runRounds_dout : (runRounds rounds s).dout = regsOfMatrix (runRounds rounds s).sMat := rfl

@[simp] theorem runRounds_din : (runRounds rounds s).din = s.din := rfl

@[simp] theorem runRounds_key : (runRounds rounds s).key = s.key := rfl

variable {s}

/-- DOUT after a driver's commit. -/
theorem dout_of_rounds {key din dout : Quad Word} (hkey : s.key = key) (hdin : s.din = din)
    (hdout : regsOfMatrix (rounds (expandKey key) (deserialize (blockOfRegs din))) = dout) :
    (complete (runRounds rounds (loadSchedule s))).dout = dout := by
  subst hkey hdin hdout
  rfl

/-- The example of 44_cipher_driver.md R223. -/
theorem encRounds_sample : regsOfMatrix (encRounds (expandKey ⟨0x74616854, 0x796D2073, 0x6E754B20, 0x75462067⟩)
    (deserialize (blockOfRegs ⟨0x206F7754, 0x20656E4F, 0x656E694E, 0x6F775420⟩))) =
    ⟨0x5F50C329, 0xF6201457, 0xB3992240, 0x3AD7021A⟩ := by
  decide +kernel

/-- The vector V-DRV-4. -/
theorem encRounds_zero : regsOfMatrix (encRounds (expandKey ⟨0, 0, 0, 0⟩) (deserialize (blockOfRegs ⟨0, 0, 0, 0⟩))) =
    ⟨0xD44BE966, 0x3B2C8AEF, 0x59FA4C88, 0x2E2B34CA⟩ := by
  decide +kernel

/-- The example of 44_cipher_driver.md R224 is that of R223 undone. -/
theorem decRounds_sample : regsOfMatrix (decRounds (expandKey ⟨0x74616854, 0x796D2073, 0x6E754B20, 0x75462067⟩)
    (deserialize (blockOfRegs ⟨0x5F50C329, 0xF6201457, 0xB3992240, 0x3AD7021A⟩))) =
    ⟨0x206F7754, 0x20656E4F, 0x656E694E, 0x6F775420⟩ := by
  rw [← encRounds_sample, regsOfMatrix_decRounds_encRounds]

end Machine

open Machine

/-! ### The statements -/

/-- Settles O57, from the round trip of the rounds (`decRounds_encRounds`): the schedule is the same, since KEY is. -/
theorem decryptionUndoesEncryption : Obligations.DecryptionUndoesEncryption :=
  ⟨invCipher_cipher, fun s => ⟨_, _, exec_enc s, exec_dec _, regsOfMatrix_decRounds_encRounds (expandKey s.key) s.din⟩⟩

/-- Settles O45, from the commit of ENC (`exec_enc`); the two vectors are computed. -/
theorem encEncryptsDinIntoDout : Obligations.EncEncryptsDinIntoDout := by
  refine ⟨?rule, fun s => ⟨_, exec_enc s, ?cipher, ?final, rfl, rfl⟩, fun w m => ?chain,
    fun s hkey hdin => ⟨_, exec_enc s, dout_of_rounds encRounds hkey hdin encRounds_sample⟩,
    fun s hkey hdin => ⟨_, exec_enc s, dout_of_rounds encRounds hkey hdin encRounds_zero⟩⟩
  case rule => exact commandRule_without_immediate (by decide) (by decide) (by decide) exec_enc
  case cipher => simp [cipher]
  case final => simp [cipher]
  case chain =>
    obtain ⟨x, hstart, hround, hlast⟩ :=
      exists_states_of_foldl (encRound w) (addRoundKey m w 0) (fun n : Fin 9 => (⟨n.val + 1, by omega⟩ : Fin 11))
    exact ⟨x, hstart, hround, congrArg (fun m => addRoundKey (shiftRows (subBytes m)) w 10) hlast⟩

/-- Settles O46, from the commit of DEC (`exec_dec`); its example is that of ENC undone. -/
theorem decDecryptsDinIntoDout : Obligations.DecDecryptsDinIntoDout := by
  refine ⟨?rule, fun s => ⟨_, exec_dec s, ?cipher, ?final, rfl, rfl⟩, fun w m => ?chain,
    fun s hkey hdin => ⟨_, exec_dec s, dout_of_rounds decRounds hkey hdin decRounds_sample⟩⟩
  case rule => exact commandRule_without_immediate (by decide) (by decide) (by decide) exec_dec
  case cipher => simp [invCipher]
  case final => simp [invCipher]
  case chain =>
    obtain ⟨x, hstart, hround, hlast⟩ :=
      exists_states_of_foldl (decRound w) (addRoundKey m w 10) (fun n : Fin 9 => (⟨9 - n.val, by omega⟩ : Fin 11))
    exact ⟨x, hstart, hround, congrArg (fun m => addRoundKey (invSubBytes (invShiftRows m)) w 0) hlast⟩

end Sys2Proof

/-! PROOFS of the statements of 45_serialization.md: the block mappings in register terms (R242) and the commands LOADS and STORES
(R243, R244). -/

namespace Sys2Proof

namespace Machine

/-! ### The mappings in register terms -/

@[simp] theorem cell_matrixOfRegs (regs : Quad Word) (r c : Fin 4) : cell (matrixOfRegs regs) r c = byteAt (regs.get c) r :=
  cell_matrixOf _ r c

/-- The state deserialized from four registers has the bytes of register c in column c (45_serialization.md R242). -/
theorem deserialize_blockOfRegs (regs : Quad Word) : deserialize (blockOfRegs regs) = matrixOfRegs regs :=
  matrix_ext fun r c => by
    rw [cell_deserialize, getElem_blockOfRegs, laneOf_blockIndex, wordIndexOf_blockIndex, cell_matrixOfRegs]

/-- The registers of a serialized state are the words of its columns (45_serialization.md R242). -/
theorem regsOfBlock_serialize (m : StateMatrix) : regsOfBlock (serialize m) = regsOfMatrix m := by
  simp only [regsOfBlock, regsOfMatrix, getElem_serialize, laneOf_blockIndex, wordIndexOf_blockIndex]

/-- What LOADS puts into S, STORES puts back into the registers (45_serialization.md R244). -/
theorem regsOfMatrix_matrixOfRegs (regs : Quad Word) : regsOfMatrix (matrixOfRegs regs) = regs := by
  rw [← deserialize_blockOfRegs, regsOfMatrix_deserialize_blockOfRegs]

end Machine

open Machine

/-! ### The statements -/

/-- Settles O41, from the byte at each index of the two mappings; the register form is the mapping of the registers' block. -/
theorem serializationRoundTrips : Obligations.SerializationRoundTrips := by
  refine ⟨cell_deserialize, getElem_serialize, serialize_deserialize, deserialize_serialize, fun regs r c => ?loaded,
    fun m c => ?stored⟩
  case loaded => rw [deserialize_blockOfRegs, cell_matrixOfRegs]
  case stored => rw [regsOfBlock_serialize, regsOfMatrix, Quad.get_ofFn]

/-- Settles O47, from the commits of LOADS and STORES (`exec_loads`, `exec_stores`) and the copy law `regsOfMatrix_matrixOfRegs`; a
driver leaves in DOUT what STORES makes of its S (`runRounds_dout`), and the examples are computed. -/
theorem loadsAndStoresMoveTheBlock : Obligations.LoadsAndStoresMoveTheBlock := by
  refine ⟨?loads, ?stores, fun s => ⟨_, _, exec_loads s, exec_stores _, regsOfMatrix_matrixOfRegs s.din⟩, ?driver,
    ⟨_, exec_stores _, by decide⟩, fun s hs => ⟨_, exec_stores s, ?storesSample⟩, fun s hs => ⟨_, exec_loads s, ?loadsSample⟩⟩
  case loads => exact commandRule_without_immediate (by decide) (by decide) (by decide) exec_loads
  case stores => exact commandRule_without_immediate (by decide) (by decide) (by decide) exec_stores
  case driver =>
    rintro i s (rfl | rfl)
    · exact ⟨_, _, exec_enc s, exec_stores _, (runRounds_dout encRounds (loadSchedule s)).symm⟩
    · exact ⟨_, _, exec_dec s, exec_stores _, (runRounds_dout decRounds (loadSchedule s)).symm⟩
  case storesSample =>
    simp only [complete_dout, hs]
    decide
  case loadsSample =>
    simp only [complete_sMat, hs]
    decide

end Sys2Proof

/-! PROOFS of the statements of 46_system.md: the commands NOP (R250) and ZERO (R251). -/

namespace Sys2Proof

open Claims

namespace Machine

variable {s : State}

/-- With KV and the error flags at 0, STATUS shows BUSY and DONE and nothing else (10_state.md R24). -/
theorem statusWord_eq_busy_done (s : State) (busy done : Bool) : statusWord s = flagBit 0 busy ||| flagBit 1 done ↔
    s.busy = busy ∧ s.done = done ∧ s.kv = false ∧ errorFlags s = [false, false, false] := by
  unfold statusWord errorFlags
  generalize s.busy = busy', s.done = done', s.kv = kv, s.errBusy = errBusy, s.errIll = errIll, s.errNokey = errNokey
  revert busy done busy' done' kv errBusy errIll errNokey
  decide

/-- STATUS reads 0x01 when BUSY is its only flag. -/
theorem statusWord_eq_one : statusWord s = 0x00000001 ↔
    s.busy = true ∧ s.done = false ∧ s.kv = false ∧ errorFlags s = [false, false, false] :=
  statusWord_eq_busy_done s true false

/-- STATUS reads 0x02 when DONE is its only flag. -/
theorem statusWord_eq_two : statusWord s = 0x00000002 ↔
    s.busy = false ∧ s.done = true ∧ s.kv = false ∧ errorFlags s = [false, false, false] :=
  statusWord_eq_busy_done s false true

/-- After ZERO, every part holds the value of reset (46_system.md R251; 10_state.md R38). -/
theorem sameAt_eraseData_reset (s : State) (p : Part) : sameAt p (complete (eraseData s)) State.reset := by
  cases p <;> rfl

/-- KEXP, ENC and DEC leave the block idle with KV = 1 (10_state.md R28). -/
theorem exec_expandsKey {i : Instr} (hi : i.ExpandsKey) (s : State) :
    ∃ u, exec i s = .next u ∧ u.pending = none ∧ u.kv = true := by
  obtain rfl | rfl | rfl := hi
  · exact ⟨_, exec_kexp s, rfl, rfl⟩
  · exact ⟨_, exec_enc s, rfl, rfl⟩
  · exact ⟨_, exec_dec s, rfl, rfl⟩

/-- ARK on an idle block with KV = 1 is accepted (43_state_transforms.md R193). -/
theorem ark_accepted_with_key {rnd : BitVec 4} (hr : rnd.toNat ≤ 10) (hp : s.pending = none) (hk : s.kv = true) :
    hostWrite 0x00 4 (encode (.ark rnd)) s = .next { s with done := false, pending := some (encode (.ark rnd)) } := by
  obtain ⟨⟨-, hword, -, -, accepted, -⟩, -⟩ := arkAddsTheRoundKey.1 rnd hr
  rw [hword]
  exact accepted s hp fun _ => hk

end Machine

open Machine

/-! ### The statements -/

/-- Settles O42, from the commit of NOP (`exec_nop`) and the flags that STATUS shows; the acceptance is the rule's. -/
theorem nopChangesOnlyTheCompletionFlags : Obligations.NopChangesOnlyTheCompletionFlags := by
  have rule : CommandRule .nop 0x00000000 0 (fun s => s) :=
    commandRule_without_immediate (by decide) (by decide) (by decide) exec_nop
  refine ⟨rule, fun s hs => ?status⟩
  obtain ⟨-, -, -, -, accepted, -⟩ := rule
  obtain ⟨hidle, -, hkv, herr⟩ := statusWord_eq_two.1 hs
  have hwrite := accepted s ((busy_eq_false s).1 hidle) (absurd · (by decide))
  exact ⟨_, _, hwrite, statusWord_eq_one.2 ⟨rfl, rfl, hkv, herr⟩, exec_nop _, statusWord_eq_two.2 ⟨rfl, rfl, hkv, herr⟩⟩

/-- Settles O43, from the commit of ZERO (`exec_zero`), and the acceptance of ARK without and with a key. -/
theorem zeroErasesKeyAndData : Obligations.ZeroErasesKeyAndData := by
  refine ⟨?rule, fun s => ⟨_, exec_zero s, sameAt_eraseData_reset s, rfl, ?status, fun rnd hr => ⟨?refused, ?accepted⟩⟩⟩
  case rule =>
    refine commandRule_without_immediate (by decide) (by decide) (by decide) fun s => ?_
    have erased : Vector.ofFn (fun _ => (0 : Word)) = Vector.replicate 44 0 := by decide
    rw [exec_zero, erased]
    rfl
  case status => exact fun herr => statusWord_eq_two.2 ⟨rfl, rfl, rfl, herr⟩
  case refused => exact ark_refused_without_key hr rfl rfl
  case accepted =>
    intro i hi
    obtain ⟨u, hexec, hidle, hkv⟩ := exec_expandsKey hi (complete (eraseData s))
    exact ⟨u, hexec, ark_accepted_with_key hr hidle hkv⟩

end Sys2Proof

/-! PROOFS of the statements of 60_exceptions.md: the BusError of the window (R264), the data-register writes (R265), the STATUS write
(R266) and the four outcomes of a CMD write (R261). -/

namespace Sys2Proof

namespace Machine

variable {s : State}

/-! ### The window -/

/-- AES_BASE is a multiple of 4, so an address is aligned exactly when its offset is (20_memory.md R68). -/
theorem hostAddress_mod_four (off : Nat) : hostAddress off % 4 = off % 4 := by
  unfold hostAddress Config.aesBase
  omega

/-- A transaction in the window with a wrong size or alignment is a BusError (60_exceptions.md R264). -/
theorem hostTransaction_busError {off size : Nat} (hoff : off < 64) (hbad : size ≠ 4 ∨ off % 4 ≠ 0)
    (eff : Reg → State → State) (s : State) :
    hostTransaction off size eff s = .fault (.busError (hostAddress off)) := by
  have hwindow : ¬off ≥ windowBytes := by unfold windowBytes; omega
  rw [hostTransaction, if_neg hwindow, if_pos hbad]

/-- An aligned transaction of size 4 in the window completes (60_exceptions.md R264). -/
theorem hostTransaction_completes {off : Nat} (hoff : off < 64) (halign : off % 4 = 0) (eff : Reg → State → State) (s : State) :
    hostTransaction off 4 eff s = .next (eff (regAt (wordOffset off)) s) :=
  (hostTransaction_eq_next ..).2 ⟨hoff, rfl, halign, rfl⟩

/-! ### The data registers -/

theorem writeReg_wreg (v : Word) (s : State) : writeReg .wreg v s = writeUnlessBusy (fun s => { s with wreg := v }) s := rfl

theorem writeReg_key (j : Fin 4) (v : Word) (s : State) :
    writeReg (.key j) v s = writeUnlessBusy (fun s => { s with key := s.key.set j v, kv := false }) s := rfl

theorem writeReg_din (j : Fin 4) (v : Word) (s : State) :
    writeReg (.din j) v s = writeUnlessBusy (fun s => { s with din := s.din.set j v }) s := rfl

section DataWrite

variable {r : Reg} {v : Word} {upd : State → State} (hr : writeReg r v s = writeUnlessBusy upd s)
include hr

/-- A write to a data register while a command is pending sets ERR_BUSY and does nothing else (60_exceptions.md R265). -/
theorem hostWrite_data_busy (hp : s.pending ≠ none) : hostWrite r.offset 4 v s = .next { s with errBusy := true } := by
  rw [hostWrite_offset, hr, writeUnlessBusy_busy upd hp]

/-- A write to a data register on an idle block is taken (60_exceptions.md R265). -/
theorem hostWrite_data_idle (hp : s.pending = none) : hostWrite r.offset 4 v s = .next (upd s) := by
  rw [hostWrite_offset, hr, writeUnlessBusy_idle upd hp]

end DataWrite

/-! ### The STATUS write -/

/-- Masking a word that holds one flag masks that flag with the mask's bit. -/
theorem flagBit_and (k : Nat) (b : Bool) (w : Word) : flagBit k b &&& w = flagBit k (b && w.getLsbD k) := by
  cases b with
  | false => simp [flagBit]
  | true => exact BitVec.twoPow_and w k

/-- The host reads STATUS with the bits cleared that a write can clear and that are 1 in the word written (60_exceptions.md R266). -/
theorem statusWord_clearStatus (v : Word) (s : State) :
    statusWord (clearStatus v s) = statusWord s &&& ~~~(v &&& 0x0000003A) := by
  simp only [statusWord, BitVec.and_or_distrib_right, flagBit_and]
  simp [State.busy]

/-- A STATUS write of 0 changes nothing (60_exceptions.md R266). -/
theorem clearStatus_zero (s : State) : clearStatus 0 s = s := by
  simp [clearStatus]

/-- A STATUS write of 1 to DONE alone changes nothing where DONE is 0. -/
theorem clearStatus_two_of_not_done (hdone : s.done = false) : clearStatus 0x00000002 s = s := by
  simp [clearStatus, ← hdone]

theorem hostWrite_status (v : Word) (s : State) : hostWrite 0x04 4 v s = .next (clearStatus v s) :=
  hostWrite_offset .status v s

end Machine

open Machine

/-! ### The statements -/

/-- Settles O13, from the two outcomes of a transaction in the window; the address is aligned exactly when the offset is. -/
theorem busErrorExactlyOnWrongSizeOrAlignment : Obligations.BusErrorExactlyOnWrongSizeOrAlignment := by
  intro s off size v hoff
  have haddr : (Config.aesBase + off) % 4 = off % 4 := hostAddress_mod_four off
  rw [haddr]
  refine ⟨fun hbad => ⟨hostTransaction_busError hoff hbad _ s, hostTransaction_busError hoff hbad _ s⟩, ?completes⟩
  rintro rfl halign
  exact ⟨⟨_, hostTransaction_completes hoff halign _ s⟩, ⟨_, hostTransaction_completes hoff halign _ s⟩⟩

/-- Settles O15: each offset is the offset of a register, whose write is `writeUnlessBusy` of one word, or nothing for DOUT and the
reserved offset. -/
theorem dataRegisterWrites : Obligations.DataRegisterWrites := by
  refine ⟨?busy, ?wreg, ?key, ?din, ?dout, ?reserved, ?read, Quad.get_set⟩
  case busy =>
    rintro s v off hp (rfl | ⟨j, rfl⟩ | ⟨j, rfl⟩)
    · exact hostWrite_data_busy (writeReg_wreg v s) hp
    · exact hostWrite_data_busy (writeReg_key j v s) hp
    · exact hostWrite_data_busy (writeReg_din j v s) hp
  case wreg => exact fun s v hp => hostWrite_data_idle (writeReg_wreg v s) hp
  case key => exact fun s v j hp => hostWrite_data_idle (writeReg_key j v s) hp
  case din => exact fun s v j hp => hostWrite_data_idle (writeReg_din j v s) hp
  case dout => exact fun s v j => hostWrite_offset (.dout j) v s
  case reserved => exact fun s v => hostWrite_offset .reserved v s
  case read => exact fun s k => ⟨_, hostTransaction_completes (by omega) (by omega) _ s⟩

/-- Settles O16, from the word that STATUS shows after the write (`statusWord_clearStatus`); a good state has DONE = 0 while a command
is pending. -/
theorem statusWriteClearsOnes : Obligations.StatusWriteClearsOnes := by
  refine ⟨fun s v => ⟨_, hostWrite_status v s, statusWord_clearStatus v s, rfl⟩, fun s => ?zero, fun s hg hp => ?pending⟩
  case zero => rw [hostWrite_status, clearStatus_zero]
  case pending =>
    have hdone : s.done = false := hg.doneClearWhileBusy ((busy_eq_true s).2 hp)
    rw [hostWrite_status, clearStatus_two_of_not_done hdone]

/-- Settles O17: a CMD write is `acceptCommand`, whose four outcomes these are. -/
theorem commandAcceptance : Obligations.CommandAcceptance := by
  intro s v
  rw [hostWrite_cmd]
  refine ⟨fun hp => ?busy, fun hp hl => ?illegal, fun hp hl ho hk => ?nokey, fun hp hl hk => ?accepted⟩
  case busy => rw [acceptCommand_busy hp]
  case illegal => rw [acceptCommand_illegal hp hl]
  case nokey => rw [acceptCommand_nokey hp hl ho hk]
  case accepted => rw [acceptCommand_accepted hp hl hk]

end Sys2Proof

/-! PROOFS of the other statements of 30_encoding.md: the words of the opcode map (R94), the rows of the opcode table, and the
agreement of the decoder and the encoder (R90 to R95). -/

namespace Sys2Proof

open Claims

/-! ### Decoding the encoding of a command -/

/-- The fields of a command's word, for every command (30_encoding.md R90, R94). -/
theorem fields_encode (i : Instr) : Laws.EncodedFields.Statement i := by
  cases i with
  | ark rnd => exact Laws.EncodedFields.ark rnd
  | rcon r => exact Laws.EncodedFields.rcon r
  | _ => decide

/-- The opcode map takes the fields of exactly the well-formed commands back to the command (30_encoding.md R92, R94). -/
theorem decodeFields_opcode_immediate (i : Instr) :
    decodeFields i.opcode i.immediate = .ok i ↔ i.wellFormed = true := by
  cases i with
  | ark rnd => revert rnd; decide
  | rcon r => revert r; decide
  | _ => decide

theorem decode_encode_eq_ok (i : Instr) : decode (encode i) = .ok i ↔ i.wellFormed = true := by
  obtain ⟨hop, himm, hrsv0, hrsv1⟩ := fields_encode i
  rw [decode, if_pos ⟨hrsv0, hrsv1⟩, hop, himm, decodeFields_opcode_immediate]

/-- 30_encoding.md R90 to R95: `decode` and `encode` are inverse to each other on the well-formed commands. -/
theorem decode_eq_ok_iff (v : Word) (i : Instr) : decode v = .ok i ↔ i.wellFormed = true ∧ encode i = v := by
  constructor
  · intro h
    obtain rfl := encode_of_decode h
    exact ⟨(decode_encode_eq_ok i).1 h, rfl⟩
  · rintro ⟨hwf, rfl⟩
    exact (decode_encode_eq_ok i).2 hwf

/-- The word of a well-formed command is legal (30_encoding.md R95). -/
theorem legal_encode {i : Instr} (h : i.wellFormed = true) : legal (encode i) = true :=
  (legal_iff_decode_ok _).2 ⟨i, (decode_encode_eq_ok i).2 h⟩

/-! ### The rows of the opcode table -/

/-- Two words with the same fields are the same (30_encoding.md R90). -/
theorem word_eq_iff_fields (v w : Word) : v = w ↔
    opField v = opField w ∧ rsv0Field v = rsv0Field w ∧ immField v = immField w ∧ rsv1Field v = rsv1Field w := by
  refine ⟨fun h => by rw [h]; exact ⟨rfl, rfl, rfl, rfl⟩, fun ⟨hop, hrsv0, himm, hrsv1⟩ => ?_⟩
  rw [word_eq_fields v, hop, hrsv0, himm, hrsv1, ← word_eq_fields w]

/-- The largest IMM that an opcode takes (30_encoding.md R92). -/
def immediateMax (op : Nat) : Nat :=
  if op = 0x13 then 10 else if op = 0x22 then 9 else 0

theorem listedWithImmediateInRange_iff (op imm : Nat) :
    ListedWithImmediateInRange op imm ↔ op ∈ listedOpcodes ∧ imm ≤ immediateMax op := by
  unfold ListedWithImmediateInRange immediateMax
  split_ifs <;> simp_all

/-- The rows are the listed opcodes, each with the largest IMM it takes. -/
theorem opcodeRows_opcodes : opcodeRows.map (fun row => ((opField row.pattern).toNat, row.immMax)) =
    listedOpcodes.map fun op => (op, immediateMax op) := by
  decide

/-- A row fixes OP and, at 0, the reserved bits; IMM it fixes at 0 or leaves to the range condition. -/
theorem opcodeRows_fields : ∀ row ∈ opcodeRows,
    (opField row.mask = BitVec.allOnes 6 ∧ rsv0Field row.mask = BitVec.allOnes 2 ∧ rsv1Field row.mask = BitVec.allOnes 20) ∧
    (rsv0Field row.pattern = 0 ∧ immField row.pattern = 0 ∧ rsv1Field row.pattern = 0) ∧
    (immField row.mask = 0 ∨ immField row.mask = BitVec.allOnes 4 ∧ row.immMax = 0) := by
  decide

/-- A word matches a row when it has the row's opcode, no reserved bit set, and IMM in range (30_encoding.md R94). -/
theorem matchesWord_iff {row : OpcodeRow} (hrow : row ∈ opcodeRows) (v : Word) : row.matchesWord v = true ↔
    rsv1Field v = 0 ∧ rsv0Field v = 0 ∧ opField v = opField row.pattern ∧ (immField v).toNat ≤ row.immMax := by
  obtain ⟨⟨hop, hrsv0, hrsv1⟩, ⟨hrsv0', himm', hrsv1'⟩, himm⟩ := opcodeRows_fields row hrow
  have masked : v &&& row.mask = row.pattern ↔
      opField v = opField row.pattern ∧ rsv0Field v = 0 ∧ immField v &&& immField row.mask = 0 ∧ rsv1Field v = 0 := by
    rw [word_eq_iff_fields, hrsv0', himm', hrsv1']
    simp only [opField, rsv0Field, immField, rsv1Field, BitVec.extractLsb'_and] at hop hrsv0 hrsv1 ⊢
    rw [hop, hrsv0, hrsv1, BitVec.and_allOnes, BitVec.and_allOnes, BitVec.and_allOnes]
  have inRange : (immField v).toNat ≤ row.immMax → immField v &&& immField row.mask = 0 := by
    obtain h | ⟨h, hmax⟩ := himm
    · simp [h]
    · intro hle
      have hzero : immField v = 0 := BitVec.eq_of_toNat_eq (by simpa [hmax] using hle)
      simp [hzero]
  simp only [OpcodeRow.matchesWord, Bool.and_eq_true, beq_iff_eq, decide_eq_true_eq, masked]
  tauto

/-- A row with this opcode and this IMM in range exists exactly when R95 takes the two fields. -/
theorem exists_row_iff (op : BitVec 6) (imm : Nat) : (∃ row ∈ opcodeRows, op = opField row.pattern ∧ imm ≤ row.immMax) ↔
    ListedWithImmediateInRange op.toNat imm := by
  have rows : (∃ row ∈ opcodeRows, op = opField row.pattern ∧ imm ≤ row.immMax) ↔
      ∃ p ∈ opcodeRows.map fun row => ((opField row.pattern).toNat, row.immMax), op.toNat = p.1 ∧ imm ≤ p.2 := by
    simp [BitVec.toNat_eq]
  rw [rows, opcodeRows_opcodes, listedWithImmediateInRange_iff]
  simp

/-- No two rows have the same opcode. -/
theorem opcodeRows_distinct : opcodeRows.Pairwise fun p q => opField p.pattern ≠ opField q.pattern := by
  decide

/-! ### The statements -/

/-- Settles O5, from the fields of a command's word and the opcode map on them (`decode_eq_ok_iff`). -/
theorem decodeAndEncodeAgree : Obligations.DecodeAndEncodeAgree :=
  decode_eq_ok_iff

/-- Settles O2: a word matches a row when its fields are the row's (`matchesWord_iff`), which is what `legal` asks of the listed
opcodes; no two rows share an opcode. -/
theorem legalWordsAreTheOpcodeTableRows : Obligations.LegalWordsAreTheOpcodeTableRows := by
  refine ⟨fun v => ?rows, ?disjoint⟩
  case rows =>
    have decodes : (decode v).toOption.isSome = true ↔ ∃ i, decode v = .ok i := by
      cases decode v <;> simp [Except.toOption]
    rw [decodes, ← legal_iff_decode_ok, legal_iff, ← exists_row_iff]
    constructor
    · rintro ⟨hrsv1, hrsv0, row, hrow, hop, himm⟩
      exact ⟨row, hrow, (matchesWord_iff hrow v).2 ⟨hrsv1, hrsv0, hop, himm⟩⟩
    · rintro ⟨row, hrow, hmatch⟩
      obtain ⟨hrsv1, hrsv0, hop, himm⟩ := (matchesWord_iff hrow v).1 hmatch
      exact ⟨hrsv1, hrsv0, row, hrow, hop, himm⟩
  case disjoint =>
    refine opcodeRows_distinct.imp_of_mem fun {p q} hp hq hne v ⟨hpv, hqv⟩ => ?_
    obtain ⟨-, -, hop, -⟩ := (matchesWord_iff hp v).1 hpv
    obtain ⟨-, -, hop', -⟩ := (matchesWord_iff hq v).1 hqv
    exact hne (hop.symm.trans hop')

/-- Settles O1: the listed words are computed, and a word that decodes is legal, so its OP is listed. -/
theorem opcodeMapWordsDecode : Obligations.OpcodeMapWordsDecode := by
  refine ⟨by decide, by decide, by decide, by decide, by decide, by decide, by decide, by decide, by decide, by decide,
    by decide, by decide, by decide, by decide, by decide, by decide, by decide, Machine.decode_ark, Machine.decode_rcon, ?_⟩
  intro v hop
  cases hv : decode v with
  | error e => exact ⟨e, rfl⟩
  | ok i =>
    obtain ⟨-, -, hlisted, -⟩ := (legal_iff v).1 ((legal_iff_decode_ok v).2 ⟨i, hv⟩)
    exact absurd (opField_toNat v ▸ hlisted) hop

end Sys2Proof

/-! PROOFS of the statements about every commit: it answers a next state (60_exceptions.md R260, R262), it writes only the parts that
10_state.md R21 gives the command as written, and from only the parts that R21 gives it as read. -/

namespace Sys2Proof

open Claims

namespace Machine

variable {s s' t t' : State}

/-! ### When a commit answers a next state -/

/-- The commit of every well-formed command answers a next state (60_exceptions.md R260). -/
theorem exec_of_wellFormed {i : Instr} (h : i.wellFormed = true) (s : State) : ∃ t, exec i s = .next t := by
  cases i with
  | ark rnd =>
    have hr : rnd.toNat ≤ 10 := of_decide_eq_true h
    exact ⟨_, exec_ark s rnd (by omega)⟩
  | rcon r =>
    have hr : r.toNat ≤ 9 := of_decide_eq_true h
    exact ⟨_, exec_rcon s r (by omega)⟩
  | _ => exact ⟨_, rfl⟩

/-- A term that is not well formed is refused for its immediate (log 8). -/
theorem exec_of_not_wellFormed {i : Instr} (h : i.wellFormed = false) (s : State) :
    ∃ imm, exec i s = .refused (.immediateOutOfRange imm) := by
  cases i with
  | ark rnd =>
    have hr : ¬rnd.toNat ≤ 10 := of_decide_eq_false h
    exact ⟨rnd, exec_ark_refused s rnd (by omega)⟩
  | rcon r =>
    have hr : ¬r.toNat ≤ 9 := of_decide_eq_false h
    exact ⟨r, exec_rcon_refused s r (by omega)⟩
  | _ => cases h

/-- The completion flags of a commit (60_exceptions.md R262). -/
theorem exec_completes {i : Instr} (h : exec i s = .next t) : t.pending = none ∧ t.done = true := by
  obtain ⟨u, rfl, -⟩ := exec_eq_next h
  exact ⟨rfl, rfl⟩

theorem errorFlags_exec {i : Instr} (h : exec i s = .next t) : errorFlags t = errorFlags s := by
  obtain ⟨u, rfl, hbusy, hill, hnokey, -⟩ := exec_eq_next h
  simp [errorFlags, hbusy, hill, hnokey]

/-! ### The frame of each kind of effect -/

theorem sameAt_complete (p : Part) (s : State) : sameAt p s (complete s) := by
  cases p <;> rfl

theorem sameAt_withSMat {p : Part} (hp : p ≠ .s) (m : StateMatrix) : sameAt p s (complete { s with sMat := m }) := by
  cases p with
  | s => exact absurd rfl hp
  | _ => rfl

theorem sameAt_withWreg {p : Part} (hp : p ≠ .wreg) (w : Word) : sameAt p s (complete { s with wreg := w }) := by
  cases p with
  | wreg => exact absurd rfl hp
  | _ => rfl

theorem sameAt_withDout {p : Part} (hp : p ≠ .dout) (d : Quad Word) : sameAt p s (complete { s with dout := d }) := by
  cases p with
  | dout => exact absurd rfl hp
  | _ => rfl

theorem exec_ark_eq_next {rnd : BitVec 4} (h : exec (.ark rnd) s = .next t) :
    ∃ hr : rnd.toNat < 11, t = complete { s with sMat := addRoundKey s.sMat s.wRam ⟨rnd.toNat, hr⟩ } := by
  by_cases hr : rnd.toNat < 11
  · rw [exec_ark s rnd hr] at h; cases h; exact ⟨hr, rfl⟩
  · rw [exec_ark_refused s rnd hr] at h; cases h

theorem exec_rcon_eq_next {r : BitVec 4} (h : exec (.rcon r) s = .next t) :
    ∃ hr : r.toNat < 10, t = complete { s with wreg := s.wreg ^^^ rconWord ⟨r.toNat, hr⟩ } := by
  by_cases hr : r.toNat < 10
  · rw [exec_rcon s r hr] at h; cases h; exact ⟨hr, rfl⟩
  · rw [exec_rcon_refused s r hr] at h; cases h

/-- A commit leaves every part that 10_state.md R21 does not give the command as written. -/
theorem exec_frame {i : Instr} (h : exec i s = .next t) {p : Part} (hp : p ∉ writesOf i) : sameAt p s t := by
  cases i with
  | nop => cases h; exact sameAt_complete p s
  | zero => cases p <;> simp [writesOf] at hp
  | kexp =>
    cases h
    cases p with
    | w | kv => simp [writesOf] at hp
    | _ => rfl
  | enc | dec =>
    cases h
    cases p with
    | w | kv | s | dout => simp [writesOf] at hp
    | _ => rfl
  | loads | subb | shr | mixc | isubb | ishr | imixc =>
    cases h; exact sameAt_withSMat (List.ne_of_not_mem_cons hp) _
  | ark rnd =>
    obtain ⟨hr, rfl⟩ := exec_ark_eq_next h
    exact sameAt_withSMat (List.ne_of_not_mem_cons hp) _
  | stores => cases h; exact sameAt_withDout (List.ne_of_not_mem_cons hp) _
  | rotw | subw | xtime | gmul => cases h; exact sameAt_withWreg (List.ne_of_not_mem_cons hp) _
  | rcon r =>
    obtain ⟨hr, rfl⟩ := exec_rcon_eq_next h
    exact sameAt_withWreg (List.ne_of_not_mem_cons hp) _

/-- A register of the window reads as before when the part it shows is as before. -/
theorem readReg_of_sameAt {r : Reg} {p : Part} (hr : partRead r = some p) (h : sameAt p s t) :
    readReg r t = readReg r s := by
  cases r with
  | cmd | status | reserved => cases hr
  | wreg => cases hr; exact Eq.symm h
  | key j | din j | dout j => cases hr; exact congrArg (Quad.get · j) (Eq.symm h)

/-! ### What a commit depends on -/

/-- States with the same parts that a command reads go to states with the same parts that it writes (10_state.md R21). -/
theorem exec_reads {i : Instr} (h : exec i s = .next t) (h' : exec i s' = .next t')
    (hreads : ∀ p ∈ readsOf i, sameAt p s s') {p : Part} (hp : p ∈ writesOf i) : sameAt p t t' := by
  cases i with
  | nop => cases hp
  | zero => cases h; cases h'; cases p <;> rfl
  | kexp =>
    have hkey : s.key = s'.key := hreads .key (by simp [readsOf])
    cases h; cases h'
    cases p with
    | w => exact congrArg expandKey hkey
    | kv => rfl
    | _ => simp [writesOf] at hp
  | enc | dec =>
    have hkey : s.key = s'.key := hreads .key (by simp [readsOf])
    have hdin : s.din = s'.din := hreads .din (by simp [readsOf])
    cases h; cases h'
    cases p with
    | w => exact congrArg expandKey hkey
    | kv => rfl
    | s | dout => simp [sameAt, hkey, hdin]
    | _ => simp [writesOf] at hp
  | loads =>
    have hdin : s.din = s'.din := hreads .din (by simp [readsOf])
    cases h; cases h'
    obtain rfl := List.mem_singleton.1 hp
    exact congrArg matrixOfRegs hdin
  | stores =>
    have hm : s.sMat = s'.sMat := hreads .s (by simp [readsOf])
    cases h; cases h'
    obtain rfl := List.mem_singleton.1 hp
    exact congrArg regsOfMatrix hm
  | subb | shr | mixc | isubb | ishr | imixc =>
    have hm : s.sMat = s'.sMat := hreads .s (by simp [readsOf])
    cases h; cases h'
    obtain rfl := List.mem_singleton.1 hp
    simp [sameAt, hm]
  | ark rnd =>
    have hm : s.sMat = s'.sMat := hreads .s (by simp [readsOf])
    have hw : s.wRam = s'.wRam := hreads .w (by simp [readsOf])
    obtain ⟨_, rfl⟩ := exec_ark_eq_next h
    obtain ⟨_, rfl⟩ := exec_ark_eq_next h'
    obtain rfl := List.mem_singleton.1 hp
    simp [sameAt, hm, hw]
  | rotw | subw | xtime | gmul =>
    have hwreg : s.wreg = s'.wreg := hreads .wreg (by simp [readsOf])
    cases h; cases h'
    obtain rfl := List.mem_singleton.1 hp
    simp [sameAt, wregLow, wregHigh, hwreg]
  | rcon r =>
    have hwreg : s.wreg = s'.wreg := hreads .wreg (by simp [readsOf])
    obtain ⟨_, rfl⟩ := exec_rcon_eq_next h
    obtain ⟨_, rfl⟩ := exec_rcon_eq_next h'
    obtain rfl := List.mem_singleton.1 hp
    simp [sameAt, hwreg]

end Machine

open Machine

/-! ### The statements -/

/-- Settles O27: only an immediate out of range is refused, and no word decodes to one (`decode_eq_ok_iff`). -/
theorem commitNeverFails : Obligations.CommitNeverFails := by
  refine ⟨fun i s hwf => ?answers, fun i s hwf => ⟨fun v hv => ?noWord, exec_of_not_wellFormed hwf s⟩⟩
  case answers =>
    obtain ⟨t, ht⟩ := exec_of_wellFormed hwf s
    obtain ⟨hpending, hdone⟩ := exec_completes ht
    have hflags := errorFlags_exec ht
    obtain ⟨u, rfl, -, -, -, hinputs, hrdata⟩ := exec_eq_next ht
    exact ⟨_, ht, hpending, hdone, hflags, hinputs, hrdata⟩
  case noWord =>
    obtain ⟨hwf', -⟩ := (decode_eq_ok_iff v i).1 hv
    exact absurd hwf' (by simp [hwf])

/-- Settles O29, from the frame of every commit (`exec_frame`). -/
theorem commandsWriteOnlyTheirRegisters : Obligations.CommandsWriteOnlyTheirRegisters := by
  intro i s t h
  exact ⟨fun p hp => exec_frame h hp, errorFlags_exec h, fun r p hr hp => readReg_of_sameAt hr (exec_frame h hp)⟩

/-- Settles O30, command by command (`exec_reads`). -/
theorem commandsDependOnlyOnWhatTheyRead : Obligations.CommandsDependOnlyOnWhatTheyRead :=
  fun _ _ _ _ _ h h' hreads _ hp => exec_reads h h' hreads hp

end Sys2Proof

/-! PROOFS of the statements about every step: whose step it is (20_memory.md R75), when it commits, resets or stops
(60_exceptions.md R260 to R267; 70_reset_and_hazards.md R290, R301), which parts of the block it changes (10_state.md R27, R35, R36),
when DONE changes (R26), and that it keeps the invariant. -/

namespace Sys2Proof

open Claims

/-! ### Runs of any machine behind the host's interface -/

/-- A run whose first step answers a next state goes on from it. -/
theorem run_of_step_next (M : Host.Core) {s t : M.State} (h : M.step s = .next t) (k : Nat) :
    M.run (k + 1) s = M.run k t := by
  rw [Host.Core.run, h]

theorem run_one (M : Host.Core) (s : M.State) : M.run 1 s = M.step s := by
  rw [Host.Core.run]
  split
  case h_1 hstep => rw [Host.Core.run, hstep]
  case h_2 hstep => exact hstep.symm
  case h_3 hstep => exact hstep.symm

/-- A run that answers a next state has gone through one after its first step. -/
theorem exists_step_of_run_next (M : Host.Core) {s u : M.State} {k : Nat} (h : M.run (k + 1) s = .next u) :
    ∃ t, M.step s = .next t ∧ M.run k t = .next u := by
  rw [Host.Core.run] at h
  split at h
  case h_1 t hstep => exact ⟨t, hstep, h⟩
  case h_2 => cases h
  case h_3 => cases h

namespace Machine

variable {s t : State}

/-! ### The step of each agent -/

/-- What a step does is fixed by the event whose turn it is (20_memory.md R75). -/
theorem step_of_event {e : Event} (he : nextEvent s = e) : step s = takeEvent e (takeInput s) := by
  rw [step, he]

theorem nextEvent_cons {e : Event} {rest : List Event} (h : s.inputs = e :: rest) : nextEvent s = e := by
  rw [nextEvent, h, List.headD_cons]

theorem nextEvent_nil (h : s.inputs = []) : nextEvent s = .engine := by
  rw [nextEvent, h, List.headD_nil]

theorem takeInput_cons {e : Event} {rest : List Event} (h : s.inputs = e :: rest) :
    takeInput s = { s with inputs := rest, rdata := none } := by
  rw [takeInput, h, List.tail_cons]

/-- A step whose event is scheduled. -/
theorem step_cons {e : Event} {rest : List Event} (h : s.inputs = e :: rest) :
    step s = takeEvent e { s with inputs := rest, rdata := none } := by
  rw [step_of_event (nextEvent_cons h), takeInput_cons h]

theorem engineTurn_idle (hp : s.pending = none) : engineTurn s = .next s := by
  rw [engineTurn, hp]

theorem engineTurn_commits {v : Word} {i : Instr} (hp : s.pending = some v) (hi : decode v = .ok i) :
    engineTurn s = exec i s := by
  simp only [engineTurn, commitPending, hp, hi]

/-- A step in which the host writes a register at its own offset. -/
theorem step_of_write {r : Reg} {v : Word} (he : nextEvent s = .memWrite r.offset 4 v) :
    step s = .next (writeReg r v (takeInput s)) := by
  rw [step_of_event he, takeEvent, hostWrite_offset]

theorem step_of_reset (he : nextEvent s = .reset) : step s = .next (resetBlock (takeInput s)) :=
  step_of_event he

/-- The Engine's turn with a command pending is that command's commit (60_exceptions.md R262). -/
theorem commit_of_step (h : step s = .next t) (he : nextEvent s = .engine) (hp : s.pending ≠ none) :
    ∃ i, exec i (takeInput s) = .next t := by
  obtain ⟨v, hv⟩ := Option.ne_none_iff_exists'.1 hp
  rw [step_of_event he, takeEvent, engineTurn, takeInput_pending, hv] at h
  dsimp only [commitPending] at h
  cases hi : decode v with
  | ok i => exact ⟨i, by simpa [hi] using h⟩
  | error e => simp [hi] at h

/-! ### The parts that a step changes -/

/-- The parts that a host write to a register, taken on an idle block, changes (10_state.md R34 to R37; 20_memory.md R72). -/
def writtenAt : Reg → List Part
  | .wreg => [.wreg]
  | .key _ => [.key, .kv]
  | .din _ => [.din]
  | .cmd | .status | .reserved | .dout _ => []

theorem acceptCommand_sameAt (v : Word) (s : State) (p : Part) : sameAt p s (acceptCommand v s) := by
  obtain ⟨-, ht⟩ | ⟨-, -, ht⟩ | ⟨-, -, -, -, ht⟩ | ⟨-, -, -, ht⟩ := acceptCommand_cases v s <;>
    rw [ht] <;> cases p <;> rfl

/-- A host write changes a part only while no command is pending, and only the parts of its register (60_exceptions.md R265). -/
theorem writeReg_sameAt_or (r : Reg) (v : Word) (s : State) (p : Part) :
    sameAt p s (writeReg r v s) ∨ s.pending = none ∧ p ∈ writtenAt r := by
  obtain ⟨rfl, ht⟩ | ⟨-, ht⟩ | ⟨-, ht⟩ | ⟨-, -, ht⟩ | ⟨hp, rfl, ht⟩ | ⟨hp, j, rfl, ht⟩ | ⟨hp, j, rfl, ht⟩ :=
    writeReg_cases r v s
  · exact .inl (acceptCommand_sameAt v s p)
  all_goals rw [ht]
  · exact .inl (by cases p <;> rfl)
  · exact .inl (by cases p <;> rfl)
  · exact .inl (by cases p <;> rfl)
  · cases p with
    | wreg => exact .inr ⟨hp, by simp [writtenAt]⟩
    | _ => exact .inl rfl
  · cases p with
    | key | kv => exact .inr ⟨hp, by simp [writtenAt]⟩
    | _ => exact .inl rfl
  · cases p with
    | din => exact .inr ⟨hp, by simp [writtenAt]⟩
    | _ => exact .inl rfl

/-- The causes for which a step may change a part: reset, the commit of a command that writes it, and a host write to a
register that shows it, taken while no command is pending (10_state.md R21, R27). -/
def MayChange (p : Part) (s : State) : Prop :=
  nextEvent s = .reset ∨ (nextEvent s = .engine ∧ ∃ i, s.pending = some (encode i) ∧ p ∈ writesOf i) ∨
    (s.pending = none ∧ ∃ r v, nextEvent s = .memWrite r.offset 4 v ∧ p ∈ writtenAt r)

/-- A step changes a part only for a cause of `MayChange`. -/
theorem step_sameAt_or (h : step s = .next t) (p : Part) : sameAt p s t ∨ MayChange p s := by
  have taken {u : State} (hu : sameAt p (takeInput s) u) : sameAt p s u := by cases p <;> exact hu
  obtain ⟨rd, rfl⟩ | ⟨r, v, he, rfl⟩ | ⟨he, i, hp, hx⟩ | ⟨he, -⟩ := step_block_cases h
  · exact .inl (by cases p <;> rfl)
  · exact (writeReg_sameAt_or r v (takeInput s) p).imp taken fun ⟨hp, hw⟩ => .inr (.inr ⟨hp, r, v, he, hw⟩)
  · by_cases hw : p ∈ writesOf i
    · exact .inr (.inr (.inl ⟨he, i, hp, hw⟩))
    · exact .inl (taken (exec_frame hx hw))
  · exact .inr (.inl he)

/-- ZERO is the only command that writes KEY or DIN (10_state.md R35, R36). -/
theorem eq_zero_of_writes_key_or_din {i : Instr} (h : Part.key ∈ writesOf i ∨ Part.din ∈ writesOf i) : i = .zero := by
  cases i with
  | zero => rfl
  | _ => simp [writesOf] at h

theorem offset_of_key_mem_writtenAt {r : Reg} (h : Part.key ∈ writtenAt r) : 0x10 ≤ r.offset ∧ r.offset ≤ 0x1C := by
  cases r with
  | key j => simp only [Reg.offset]; omega
  | _ => simp [writtenAt] at h

theorem offset_of_din_mem_writtenAt {r : Reg} (h : Part.din ∈ writtenAt r) : 0x20 ≤ r.offset ∧ r.offset ≤ 0x2C := by
  cases r with
  | din j => simp only [Reg.offset]; omega
  | _ => simp [writtenAt] at h

/-- A part that no command but ZERO writes, and that the host writes only at the offsets from `lo` to `hi`, changes only by
reset, the commit of ZERO, and a write there on an idle block. -/
theorem step_changes_part {p : Part} {lo hi : Nat} (hzero : ∀ i, p ∈ writesOf i → i = .zero)
    (hoff : ∀ r, p ∈ writtenAt r → lo ≤ r.offset ∧ r.offset ≤ hi) (h : step s = .next t) (hne : ¬sameAt p s t) :
    nextEvent s = .reset ∨ (nextEvent s = .engine ∧ s.pending = some (encode .zero)) ∨
      (s.pending = none ∧ ∃ (off : Nat) (v : Word), nextEvent s = .memWrite off 4 v ∧ lo ≤ off ∧ off ≤ hi) := by
  obtain hsame | he | ⟨he, i, hp, hw⟩ | ⟨hp, r, v, he, hw⟩ := step_sameAt_or h p
  · exact absurd hsame hne
  · exact .inl he
  · obtain rfl := hzero i hw
    exact .inr (.inl ⟨he, hp⟩)
  · exact .inr (.inr ⟨hp, r.offset, v, he, hoff r hw⟩)

/-! ### PENDING -/

/-- While a command is pending, no host write changes PENDING (60_exceptions.md R261). -/
theorem writeReg_pending_busy (r : Reg) (v : Word) (hp : s.pending ≠ none) : (writeReg r v s).pending = s.pending := by
  cases r with
  | cmd => rw [writeReg, acceptCommand_busy hp]
  | status | reserved | dout => rfl
  | wreg | key | din => rw [writeReg, writeUnlessBusy_busy _ hp]

/-- Only a CMD write changes PENDING (60_exceptions.md R261, R265). -/
theorem writeReg_pending_of_ne_cmd {r : Reg} (v : Word) (hr : r ≠ .cmd) (s : State) :
    (writeReg r v s).pending = s.pending := by
  by_cases hp : s.pending = none
  · cases r with
    | cmd => exact absurd rfl hr
    | status | reserved | dout => rfl
    | wreg | key | din => rw [writeReg, writeUnlessBusy_idle _ hp]
  · exact writeReg_pending_busy r v hp

/-! ### DONE -/

/-- A CMD write clears DONE on an idle block, also one that is refused there (60_exceptions.md R261). -/
theorem acceptCommand_done (v : Word) (s : State) :
    (acceptCommand v s).done = if s.pending = none then false else s.done := by
  obtain ⟨hp, ht⟩ | ⟨hp, -, ht⟩ | ⟨hp, -, -, -, ht⟩ | ⟨hp, -, -, ht⟩ := acceptCommand_cases v s <;> simp [ht, hp]

/-- A host write clears DONE only as a CMD write on an idle block or a STATUS write of 1 to bit 1 (10_state.md R26). -/
theorem writeReg_done (r : Reg) (v : Word) (s : State) : (writeReg r v s).done =
    (s.done && !decide (r = .cmd ∧ s.pending = none ∨ r = .status ∧ v.getLsbD 1 = true)) := by
  cases r with
  | cmd => rw [writeReg, acceptCommand_done]; by_cases hp : s.pending = none <;> simp [hp]
  | status => simp [writeReg]
  | reserved | dout => simp [writeReg]
  | wreg | key | din =>
    by_cases hp : s.pending = none
    · simp [writeReg, writeUnlessBusy_idle _ hp]
    · simp [writeReg, writeUnlessBusy_busy _ hp]

theorem writeReg_done_of_not_done (r : Reg) (v : Word) (hs : s.done = false) : (writeReg r v s).done = false := by
  rw [writeReg_done, hs, Bool.false_and]

theorem cause_of_writeReg_clears_done {r : Reg} {v : Word} (hs : s.done = true) (h : (writeReg r v s).done = false) :
    r = .cmd ∧ s.pending = none ∨ r = .status ∧ v.getLsbD 1 = true := by
  rw [writeReg_done, hs, Bool.true_and, Bool.not_eq_false'] at h
  exact of_decide_eq_true h

/-- No host write touches the schedule (log 1). -/
theorem writeReg_inputs (r : Reg) (v : Word) (s : State) : (writeReg r v s).inputs = s.inputs := by
  obtain ⟨-, ht⟩ | ⟨-, ht⟩ | ⟨-, ht⟩ | ⟨-, -, ht⟩ | ⟨-, -, ht⟩ | ⟨-, j, -, ht⟩ | ⟨-, j, -, ht⟩ := writeReg_cases r v s
  · obtain ⟨-, ha⟩ | ⟨-, -, ha⟩ | ⟨-, -, -, -, ha⟩ | ⟨-, -, -, ha⟩ := acceptCommand_cases v s <;> rw [ht, ha]
  all_goals rw [ht]
  rfl

/-! ### The invariant -/

/-- The CMD write that is accepted is of a legal word, with KV = 1 if it is ARK, and it clears DONE (60_exceptions.md R261). -/
theorem accepted_of_acceptCommand_pending {v w : Word} (hp : s.pending = none) (h : (acceptCommand w s).pending = some v) :
    legal v = true ∧ (opField v = opArk → (acceptCommand w s).kv = true) ∧ (acceptCommand w s).done = false := by
  obtain ⟨-, -, hkv⟩ := acceptCommand_sameKeySchedule w s
  rw [hkv, acceptCommand_done, if_pos hp]
  rw [acceptCommand_pending, hp] at h
  split at h
  case isTrue hacc =>
    cases h
    obtain ⟨-, hl, hark⟩ := hacc
    exact ⟨hl, hark, rfl⟩
  case isFalse => cases h

/-- How a command can be pending after a step: it was pending before, or the step is the CMD write that is accepted. -/
theorem step_leaves_pending {v : Word} (h : step s = .next t) (ht : t.pending = some v) :
    (s.pending = some v ∧ t.kv = s.kv ∧ (s.done = false → t.done = false)) ∨
    (legal v = true ∧ (opField v = opArk → t.kv = true) ∧ t.done = false) := by
  obtain ⟨rd, rfl⟩ | ⟨r, w, -, rfl⟩ | ⟨-, i, -, hx⟩ | ⟨-, rfl⟩ := step_block_cases h
  · exact .inl ⟨ht, rfl, id⟩
  · by_cases hp : s.pending = none
    · have hr : r = .cmd := by
        by_contra hr
        rw [writeReg_pending_of_ne_cmd w hr, takeInput_pending, hp] at ht
        cases ht
      subst hr
      exact .inr (accepted_of_acceptCommand_pending hp ht)
    · have hpending : (writeReg r w (takeInput s)).pending = s.pending := writeReg_pending_busy r w hp
      rw [hpending] at ht
      obtain hkv | ⟨hp', -⟩ := writeReg_sameAt_or r w (takeInput s) .kv
      · exact .inl ⟨ht, Eq.symm hkv, writeReg_done_of_not_done (s := takeInput s) r w⟩
      · exact absurd hp' hp
  · rw [(exec_completes hx).1] at ht; cases ht
  · cases ht

/-- Every step keeps the invariant. -/
theorem step_good (hg : s.Good) (h : step s = .next t) : t.Good where
  pendingLegal v ht := by
    obtain ⟨hp, -⟩ | ⟨hl, -⟩ := step_leaves_pending h ht
    · exact hg.pendingLegal v hp
    · exact hl
  pendingArkHasKey v ht ho := by
    obtain ⟨hp, hkv, -⟩ | ⟨-, hark, -⟩ := step_leaves_pending h ht
    · rw [hkv]; exact hg.pendingArkHasKey v hp ho
    · exact hark ho
  doneClearWhileBusy hb := by
    obtain ⟨v, ht⟩ := Option.ne_none_iff_exists'.1 ((busy_eq_true t).1 hb)
    obtain ⟨hp, -, hdone⟩ | ⟨-, -, hdone⟩ := step_leaves_pending h ht
    · exact hdone (hg.doneClearWhileBusy ((busy_eq_true s).2 (by simp [hp])))
    · exact hdone
  scheduleOfKey := step_keeps_scheduleOfKey h hg.scheduleOfKey

/-! ### How a step ends -/

/-- A transaction outside the window is refused (20_memory.md R68; log 4). -/
theorem hostTransaction_outside {off : Nat} (h : off ≥ 64) (size : Nat) (eff : Reg → State → State) (s : State) :
    hostTransaction off size eff s = .refused (.outsideWindow (hostAddress off)) :=
  if_pos h

/-- A step of a host is a transaction at the offset of its event. -/
theorem step_of_transaction {off size : Nat} {v : Word}
    (he : nextEvent s = .memRead off size ∨ nextEvent s = .memWrite off size v) :
    ∃ eff, step s = hostTransaction off size eff (takeInput s) := by
  obtain he | he := he
  · rw [step_of_event he, takeEvent, hostRead]; exact ⟨_, rfl⟩
  · rw [step_of_event he, takeEvent, hostWrite]; exact ⟨_, rfl⟩

/-- In a good state the Engine's turn answers a next state: the pending word is legal, so its command is well formed. -/
theorem engineTurn_of_good (hg : s.Good) : ∃ t, engineTurn (takeInput s) = .next t := by
  cases hp : s.pending with
  | none => exact ⟨_, engineTurn_idle hp⟩
  | some v =>
    obtain ⟨i, hi⟩ := (legal_iff_decode_ok v).1 (hg.pendingLegal v hp)
    obtain ⟨hwf, -⟩ := (decode_eq_ok_iff v i).1 hi
    rw [engineTurn_commits (s := takeInput s) hp hi]
    exact exec_of_wellFormed hwf _

/-- A step from a good state is a host's transaction or answers a next state. -/
theorem step_of_good (hg : s.Good) :
    (∃ (off size : Nat) (v : Word), nextEvent s = .memRead off size ∨ nextEvent s = .memWrite off size v) ∨
    ∃ t, step s = .next t := by
  cases he : nextEvent s with
  | memRead off size => exact .inl ⟨off, size, 0, .inl rfl⟩
  | memWrite off size v => exact .inl ⟨off, size, v, .inr rfl⟩
  | engine => rw [step_of_event he]; exact .inr (engineTurn_of_good hg)
  | reset => exact .inr ⟨_, step_of_reset he⟩

theorem hostTransaction_endsAsTheSpecAllows (off size : Nat) (eff : Reg → State → State) (s : State) :
    endsAsTheSpecAllows (hostTransaction off size eff s) := by
  cases h : hostTransaction off size eff s with
  | next t => trivial
  | fault f =>
    obtain ⟨-, -, rfl⟩ := hostTransaction_eq_fault off size eff f h
    trivial
  | refused r =>
    obtain ⟨-, rfl⟩ := hostTransaction_eq_refused off size eff r h
    trivial

/-! ### Runs -/

/-- A step takes its event off the schedule and leaves the others (log 1, log 10). -/
theorem step_inputs (h : step s = .next t) : t.inputs = s.inputs.tail := by
  obtain ⟨rd, rfl⟩ | ⟨r, v, -, rfl⟩ | ⟨-, i, -, hx⟩ | ⟨-, rfl⟩ := step_block_cases h
  · rfl
  · exact writeReg_inputs r v (takeInput s)
  · obtain ⟨u, rfl, -, -, -, hinputs, -⟩ := exec_eq_next hx
    exact hinputs
  · rfl

/-- The Engine's turn leaves nothing pending (60_exceptions.md R262, R278). -/
theorem pending_of_engine_step (h : step s = .next t) (he : nextEvent s = .engine) : t.pending = none := by
  by_cases hp : s.pending = none
  · rw [step_of_event he, takeEvent, engineTurn_idle (s := takeInput s) hp] at h
    cases h
    exact hp
  · obtain ⟨i, hx⟩ := commit_of_step h he hp
    exact (exec_completes hx).1

/-- A run one step longer than its schedule ends with the Engine's turn (log 1). -/
theorem run_schedule_quiescent {n : Nat} (hn : s.inputs.length = n)
    (h : Host.Core.run Sys2Proof.core (n + 1) s = .next t) : t.quiescent := by
  induction n generalizing s with
  | zero =>
    have hstep : step s = .next t := (run_one Sys2Proof.core s).symm.trans h
    exact pending_of_engine_step hstep (nextEvent_nil (List.length_eq_zero_iff.1 hn))
  | succ n ih =>
    obtain ⟨u, hu, hrun⟩ := exists_step_of_run_next Sys2Proof.core h
    exact ih (by rw [step_inputs hu, List.length_tail, hn, Nat.add_sub_cancel]) hrun

/-! ### The flags of one host write -/

/-- A host write sets a flag that was not set only when it is refused with that flag (60_exceptions.md R263). -/
theorem errorFlag_of_writeReg {f : ErrorFlag} {r : Reg} {v : Word} (h : (writeReg r v s).errorFlag f = true) :
    s.errorFlag f = true ∨ flagRaised r v s = some f := by
  by_cases hr : r = .status
  · subst hr
    rw [writeReg, errorFlag_clearStatus, Bool.and_eq_true] at h
    exact .inl h.1
  · simpa [errorFlag_writeReg f v hr] using h

/-- At most one flag is newly set when every newly set flag is the one that `raised` names. -/
theorem newlySet_le_one {raised : Option ErrorFlag}
    (h : ∀ f, t.errorFlag f = true → s.errorFlag f = true ∨ raised = some f) : newlySet s t ≤ 1 := by
  have atMostOne : [ErrorFlag.busy, .ill, .nokey].countP (fun f => raised == some f) ≤ 1 := by
    obtain _ | _ | _ | _ := raised <;> decide
  have hcount : newlySet s t = [ErrorFlag.busy, .ill, .nokey].countP fun f => !s.errorFlag f && t.errorFlag f := rfl
  rw [hcount]
  refine (List.countP_mono_left fun f _ hf => ?_).trans atMostOne
  obtain ⟨hs, ht⟩ : s.errorFlag f = false ∧ t.errorFlag f = true := by simpa using hf
  simpa [hs] using h f ht

end Machine

open Machine

/-! ### The statements -/

/-- Settles O24, clause by clause (`step_good`): what is pending after a step was pending before or has just been accepted. -/
theorem everyStepKeepsGood : Obligations.EveryStepKeepsGood :=
  fun _ _ => step_good

/-- Settles O18, from the one flag that a refused write raises (`flagRaised`). -/
theorem oneTransactionSetsAtMostOneFlag : Obligations.OneTransactionSetsAtMostOneFlag := by
  intro s t off size v h
  obtain ⟨-, -, -, rfl⟩ := (hostTransaction_eq_next ..).1 h
  refine ⟨newlySet_le_one fun f => errorFlag_of_writeReg, fun hp ht => ?ill, fun hp ht => ?nokey, fun hp ht => ?busy⟩
  case ill =>
    refine (errorFlag_of_writeReg (f := .ill) ht).resolve_right fun hraised => ?_
    exact hp ((flagRaised_eq_ill ..).1 hraised).1
  case nokey =>
    refine (errorFlag_of_writeReg (f := .nokey) ht).resolve_right fun hraised => ?_
    exact hp ((flagRaised_eq_nokey ..).1 hraised).1
  case busy =>
    refine (errorFlag_of_writeReg (f := .busy) ht).resolve_right fun hraised => ?_
    exact ((flagRaised_eq_busy ..).1 hraised).1 hp

/-- Settles O21: a commit sets DONE, and a host write clears it only as `writeReg_done` says. -/
theorem doneChanges : Obligations.DoneChanges := by
  refine ⟨?raised, ?commit, ?cleared, ?cmd, ?status, ?reset⟩
  case raised =>
    intro s t h hs ht
    obtain ⟨rd, rfl⟩ | ⟨r, v, -, rfl⟩ | ⟨he, i, hp, -⟩ | ⟨-, rfl⟩ := step_block_cases h
    · exact absurd ht (by simp [hs])
    · exact absurd ht (by simp [writeReg_done_of_not_done, hs])
    · exact ⟨he, by simp [hp]⟩
    · cases ht
  case commit =>
    intro s t h he hp
    obtain ⟨i, hx⟩ := commit_of_step h he hp
    exact (exec_completes hx).symm
  case cleared =>
    intro s t h hs ht
    obtain ⟨rd, rfl⟩ | ⟨r, v, he, rfl⟩ | ⟨-, i, -, hx⟩ | ⟨he, -⟩ := step_block_cases h
    · exact absurd ht (by simp [hs])
    · obtain ⟨rfl, hp⟩ | ⟨rfl, hv⟩ := cause_of_writeReg_clears_done (s := takeInput s) hs ht
      · exact .inr (.inr ⟨hp, v, he⟩)
      · exact .inr (.inl ⟨v, he, hv⟩)
    · exact absurd ht (by simp [(exec_completes hx).2])
    · exact .inl he
  case cmd =>
    intro s t v h he
    obtain rfl : writeReg .cmd v (takeInput s) = t := by simpa [step_of_write (r := .cmd) he] using h
    simp +contextual [writeReg_done]
  case status =>
    intro s t v h he hv
    obtain rfl : writeReg .status v (takeInput s) = t := by simpa [step_of_write (r := .status) he] using h
    simp [writeReg_done, hv]
  case reset =>
    intro s t h he
    obtain rfl : resetBlock (takeInput s) = t := by simpa [step_of_reset he] using h
    rfl

/-- Settles O22, from the causes for which a step may change a part (`step_changes_part`). -/
theorem keyAndDinChangeOnlyByHostZeroReset : Obligations.KeyAndDinChangeOnlyByHostZeroReset := by
  intro s t h
  refine ⟨fun hne => ?key, fun hne => ?din⟩
  case key =>
    exact step_changes_part (p := .key) (fun _ hw => eq_zero_of_writes_key_or_din (.inl hw))
      (fun _ => offset_of_key_mem_writtenAt) h (Ne.symm hne)
  case din =>
    exact step_changes_part (p := .din) (fun _ hw => eq_zero_of_writes_key_or_din (.inr hw))
      (fun _ => offset_of_din_mem_writtenAt) h (Ne.symm hne)

/-- Settles O23: only a host's step is left, and it changes neither PENDING nor a part (`writeReg_sameAt_or`). -/
theorem inputsLockedAndOutputsStaleWhileBusy : Obligations.InputsLockedAndOutputsStaleWhileBusy := by
  intro s t hbusy hengine hreset h
  refine ⟨?pending, fun p => ?part⟩
  case pending =>
    obtain ⟨rd, rfl⟩ | ⟨r, v, -, rfl⟩ | ⟨he, -⟩ | ⟨he, -⟩ := step_block_cases h
    · rfl
    · exact writeReg_pending_busy (s := takeInput s) r v hbusy
    · exact absurd he hengine
    · exact absurd he hreset
  case part =>
    obtain hsame | he | ⟨he, -⟩ | ⟨hidle, -⟩ := step_sameAt_or h p
    · exact hsame
    · exact absurd he hreset
    · exact absurd he hengine
    · exact absurd hidle hbusy

/-- Settles O26: the Engine and reset answer a next state (`step_of_good`), and a transaction stops only as its three outcomes say. -/
theorem goodStatesNeverGetStuck : Obligations.GoodStatesNeverGetStuck := by
  intro s hg
  have outside {off size : Nat} {v : Word} (he : nextEvent s = .memRead off size ∨ nextEvent s = .memWrite off size v)
      (hoff : off ≥ 64) : step s = .refused (.outsideWindow (hostAddress off)) := by
    obtain ⟨eff, hstep⟩ := step_of_transaction he
    rw [hstep, hostTransaction_outside hoff]
  obtain ⟨off, size, v, he⟩ | ⟨t, ht⟩ := step_of_good hg
  · obtain ⟨eff, hstep⟩ := step_of_transaction he
    refine ⟨?allowed, fun f hf => ?fault, fun r => ⟨fun hr => ?refused, ?outside⟩⟩
    case allowed => rw [hstep]; exact hostTransaction_endsAsTheSpecAllows ..
    case fault =>
      obtain ⟨-, hbad, -⟩ := hostTransaction_eq_fault off size eff f (hstep ▸ hf)
      exact ⟨off, size, v, he, hbad⟩
    case refused =>
      obtain ⟨hoff, hr⟩ := hostTransaction_eq_refused off size eff r (hstep ▸ hr)
      exact ⟨off, size, v, he, hoff, hr⟩
    case outside => rintro ⟨off, size, v, he, hoff, rfl⟩; exact outside he hoff
  · refine ⟨by rw [ht]; trivial, fun f hf => absurd (ht.symm.trans hf) (by simp),
      fun r => ⟨fun hr => absurd (ht.symm.trans hr) (by simp), ?_⟩⟩
    rintro ⟨off, size, v, he, hoff, rfl⟩; exact outside he hoff

/-- Settles O28, by induction on the schedule: every step takes one event off it, and the Engine's turn comes after the last. -/
theorem pendingCommandCommitsAfterTheScheduledSteps : Obligations.PendingCommandCommitsAfterTheScheduledSteps :=
  fun _ _ => run_schedule_quiescent rfl

/-- Settles O6: the Engine's turn commits what the pending word decodes to (`engineTurn_commits`). -/
theorem stepRunsThePendingCommand : Obligations.StepRunsThePendingCommand := by
  refine ⟨fun s v i hp hi he => ?pending, fun s v i hi => ?placed⟩
  case pending =>
    rw [step_of_event he]
    exact engineTurn_commits (s := takeInput s) hp hi
  case placed =>
    have hword : BitVec.ofNat 32 (v.toNat % 2 ^ 32) = v := by
      rw [Nat.mod_eq_of_lt v.isLt, BitVec.ofNat_toNat, BitVec.setWidth_eq]
    rw [State.withFetchWord, placeCommand, hword, step_cons rfl]
    exact engineTurn_commits (s := { s with pending := some v, rdata := none }) rfl hi

/-- Settles O7, event by event (`step_of_event`). -/
theorem stepIsOneAgentsStep : Obligations.StepIsOneAgentsStep :=
  ⟨fun _ _ _ _ h => step_cons h, fun _ _ _ _ _ h => step_cons h,
    fun s hp he => (step_of_event he).trans (engineTurn_idle (s := takeInput s) hp), fun _ h => nextEvent_nil h⟩

/-- Settles O10, from the step of a reset event (`step_of_reset`). -/
theorem resetEventResetsEverything : Obligations.ResetEventResetsEverything := by
  intro s rest h
  rw [step_cons h]
  rfl

/-- Settles O25: nothing is pending after reset, and KV is 0. -/
theorem resetIsGood : Obligations.ResetIsGood where
  pendingLegal _ h := by cases h
  pendingArkHasKey _ h := by cases h
  doneClearWhileBusy _ := rfl
  scheduleOfKey h := by cases h

end Sys2Proof

/-! PROOFS of the other statements of the register window and of words: what a read returns (10_state.md R23, R34 to R37), the
layout of STATUS (R24, R25), the word offset of an address (20_memory.md R68), and the bytes of a word (00_scope.md R8). -/

namespace Sys2Proof

namespace Machine

/-! ### Reads -/

/-- An aligned read at a register's offset returns what the register reads (20_memory.md R72). -/
theorem hostRead_offset (r : Reg) (s : State) : hostRead r.offset 4 s = .next { s with rdata := some (readReg r s) } := by
  obtain ⟨hoff, halign⟩ := offset_aligned r
  rw [hostRead, hostTransaction_completes hoff halign, regAt_offset]

/-! ### The bits of STATUS -/

theorem getLsbD_flagBit (k i : Nat) (b : Bool) : (flagBit k b).getLsbD i = (b && decide (k < 32) && decide (k = i)) := by
  cases b with
  | false => exact BitVec.getLsbD_zero
  | true => exact BitVec.getLsbD_twoPow k i

/-- Each bit of STATUS is the flag that stands at it (10_state.md R24). -/
theorem getLsbD_statusWord (s : State) (i : Nat) : (statusWord s).getLsbD i =
    (s.busy && decide (0 = i) || s.done && decide (1 = i) || s.kv && decide (2 = i) || s.errBusy && decide (3 = i) ||
      s.errIll && decide (4 = i) || s.errNokey && decide (5 = i)) := by
  simp [statusWord, getLsbD_flagBit]

/-! ### Addresses -/

theorem wordOffset_hostAddress (off : Nat) : wordOffset (hostAddress off) = wordOffset off := by
  ext
  simp only [wordOffset, hostAddress, Config.aesBase]
  omega

/-- The word offset is bits 5:2 of the address (20_memory.md R68). -/
theorem wordOffset_eq_bits (addr : Nat) : (wordOffset addr).val = (addr >>> 2) &&& 0xF := by
  rw [Nat.and_two_pow_sub_one_eq_mod _ 4, Nat.shiftRight_eq_div_pow, wordOffset]

/-! ### Bytes as numbers -/

theorem byteAt_toNat (w : Word) (k : Fin 4) : (byteAt w k).toNat = w.toNat / 2 ^ (8 * k.val) % 256 := by
  rw [byteAt, BitVec.extractLsb'_toNat, Nat.shiftRight_eq_div_pow]

/-- A word put together from four bytes, as a number (00_scope.md R8): its bytes are these, and it has no others. -/
theorem wordOf_toNat (b0 b1 b2 b3 : Byte) : (wordOf b0 b1 b2 b3).toNat =
    b0.toNat + b1.toNat * 2 ^ 8 + b2.toNat * 2 ^ 16 + b3.toNat * 2 ^ 24 := by
  have byte (k : Fin 4) : ((⟨b0, b1, b2, b3⟩ : Quad Byte).get k).toNat =
      (wordOf b0 b1 b2 b3).toNat / 2 ^ (8 * k.val) % 256 := by
    rw [← byteAt_wordOf, byteAt_toNat]
  have h0 : b0.toNat = (wordOf b0 b1 b2 b3).toNat / 2 ^ 0 % 256 := byte 0
  have h1 : b1.toNat = (wordOf b0 b1 b2 b3).toNat / 2 ^ 8 % 256 := byte 1
  have h2 : b2.toNat = (wordOf b0 b1 b2 b3).toNat / 2 ^ 16 % 256 := byte 2
  have h3 : b3.toNat = (wordOf b0 b1 b2 b3).toNat / 2 ^ 24 % 256 := byte 3
  have hlt : (wordOf b0 b1 b2 b3).toNat < 2 ^ 32 := (wordOf b0 b1 b2 b3).isLt
  omega

end Machine

open Machine

/-! ### The statements -/

/-- Settles O11: each offset is the offset of a register (`hostRead_offset`). -/
theorem readsReturnTheRegisters : Obligations.ReadsReturnTheRegisters := fun s =>
  ⟨hostRead_offset .cmd s, hostRead_offset .status s, hostRead_offset .wreg s, hostRead_offset .reserved s,
    fun j => hostRead_offset (.key j) s, fun j => hostRead_offset (.din j) s, fun j => hostRead_offset (.dout j) s⟩

/-- Settles O12, from the flag at each bit (`getLsbD_statusWord`). -/
theorem statusWordLayout : Obligations.StatusWordLayout := by
  intro s
  simp only [getLsbD_statusWord]
  refine ⟨?busy, by simp, by simp, by simp, by simp, by simp, fun k hk => ?reserved⟩
  case busy => simpa using busy_eq_true s
  case reserved =>
    have above {n : Nat} (hn : n < 6) : decide (n = k) = false := decide_eq_false (by omega)
    simp [above]

/-- Settles O14: AES_BASE is a multiple of 64, so it does not touch bits 5:2. -/
theorem wordOffsetIsAddressBits5To2 : Obligations.WordOffsetIsAddressBits5To2 :=
  ⟨Nat.mul_mod_right 64 _, fun off => ⟨wordOffset_hostAddress off, wordOffset_eq_bits _⟩⟩

/-- Settles O31, byte by byte (`byteAt_toNat`); a word's number is that of its bytes. -/
theorem bytesOfAWord : Obligations.BytesOfAWord :=
  ⟨wordOf_toNat, byteAt_toNat, byteAt_wordOf, wordOf_byteAt⟩

end Sys2Proof

/-! PROOFS of the statements about commands that a host runs: the CMD write of one command and its commit (60_exceptions.md R261,
R262), and the drivers as runs of single-step commands (44_cipher_driver.md R227; 70_reset_and_hazards.md R302). -/

namespace Sys2Proof

open Claims

namespace Machine

variable {s t : State} {i : Instr} {rest : List Event}

/-! ### One command -/

/-- The block after it has accepted a command, with the steps that are still scheduled (60_exceptions.md R261). -/
def accepted (i : Instr) (rest : List Event) (s : State) : State :=
  { s with done := false, pending := some (encode i), inputs := rest, rdata := none }

/-- The CMD write of a well-formed command on an idle block is accepted (60_exceptions.md R261). -/
theorem step_accepts (hin : s.inputs = runCommand i ++ rest) (hwf : i.wellFormed = true) (hp : s.pending = none)
    (hkv : i.opcode = 0x13 → s.kv = true) : step s = .next (accepted i (.engine :: rest) s) := by
  obtain ⟨hop, -⟩ := fields_encode i
  have haccepts := acceptCommand_accepted (s := { s with inputs := .engine :: rest, rdata := none }) hp (legal_encode hwf)
    fun hark => hkv (hop ▸ hark)
  rw [step_cons hin, takeEvent, hostWrite_cmd]
  exact congrArg _ haccepts

/-- The step after an acceptance is the command's commit when the Engine moves next (60_exceptions.md R262). -/
theorem step_accepted (hwf : i.wellFormed = true) : step (accepted i (.engine :: rest) s) = exec i (accepted i rest s) := by
  rw [step_cons rfl]
  exact engineTurn_commits (s := accepted i rest s) rfl ((decode_encode_eq_ok i).2 hwf)

theorem run_core_of_step (h : step s = .next t) (k : Nat) :
    Host.Core.run Sys2Proof.core (k + 1) s = Host.Core.run Sys2Proof.core k t :=
  run_of_step_next Sys2Proof.core h k

/-- A run over one command goes on from its commit. -/
theorem run_command (hin : s.inputs = runCommand i ++ rest) (hwf : i.wellFormed = true) (hp : s.pending = none)
    (hkv : i.opcode = 0x13 → s.kv = true) (hexec : exec i (accepted i rest s) = .next t) (k : Nat) :
    Host.Core.run Sys2Proof.core (k + 2) s = Host.Core.run Sys2Proof.core k t := by
  rw [run_core_of_step (step_accepts hin hwf hp hkv), run_core_of_step ((step_accepted hwf).trans hexec)]

/-! ### Single-step commands on S -/

/-- The block of `s` idle after a commit, with its key expanded into W, with state matrix `m`, and with the commands `is` to come. -/
def scheduled (s : State) (m : StateMatrix) (is : List Instr) : State :=
  { loadSchedule s with pending := none, done := true, rdata := none, sMat := m, inputs := runCommands is }

/-- The run of the commands that are to come, each to its commit. -/
def runScheduled (s : State) (m : StateMatrix) (is : List Instr) : Host.Outcome State Fault Refusal :=
  Host.Core.run Sys2Proof.core (2 * is.length) (scheduled s m is)

/-- KEXP brings an idle block there. -/
theorem run_kexp (hp : s.pending = none) (is : List Instr) :
    Host.Core.run Sys2Proof.core (2 * (Instr.kexp :: is).length) { s with inputs := runCommands (.kexp :: is) } =
      runScheduled s s.sMat is :=
  run_command (i := .kexp) (s := { s with inputs := runCommands (.kexp :: is) }) rfl rfl hp (absurd · (by decide)) (exec_kexp _) _

/-- A command whose commit is S <- m' takes the run from `m` to `m'`. -/
theorem runScheduled_cons {m m' : StateMatrix} {is : List Instr} (hwf : i.wellFormed = true)
    (hexec : ∀ t : State, t.din = s.din → t.wRam = expandKey s.key → t.sMat = m →
      exec i t = .next (complete { t with sMat := m' })) :
    runScheduled s m (i :: is) = runScheduled s m' is :=
  run_command (s := scheduled s m (i :: is)) rfl hwf rfl (fun _ => rfl) (hexec _ rfl rfl rfl) _

/-- STORES as the last command of a run. -/
theorem runScheduled_stores (m : StateMatrix) :
    runScheduled s m [.stores] = .next { scheduled s m [] with dout := regsOfMatrix m } :=
  run_command (i := .stores) (s := scheduled s m [.stores]) rfl rfl rfl (fun _ => rfl) (exec_stores _) 0

variable (m : StateMatrix) (is : List Instr)

theorem runScheduled_loads : runScheduled s m (.loads :: is) = runScheduled s (deserialize (blockOfRegs s.din)) is := by
  refine runScheduled_cons rfl fun t hdin _ _ => ?_
  rw [exec_loads, hdin, deserialize_blockOfRegs]

theorem runScheduled_subb : runScheduled s m (.subb :: is) = runScheduled s (subBytes m) is :=
  runScheduled_cons rfl fun t _ _ hm => by rw [exec_subb, hm]

theorem runScheduled_shr : runScheduled s m (.shr :: is) = runScheduled s (shiftRows m) is :=
  runScheduled_cons rfl fun t _ _ hm => by rw [exec_shr, hm]

theorem runScheduled_mixc : runScheduled s m (.mixc :: is) = runScheduled s (mixColumns m) is :=
  runScheduled_cons rfl fun t _ _ hm => by rw [exec_mixc, hm]

theorem runScheduled_isubb : runScheduled s m (.isubb :: is) = runScheduled s (invSubBytes m) is :=
  runScheduled_cons rfl fun t _ _ hm => by rw [exec_isubb, hm]

theorem runScheduled_ishr : runScheduled s m (.ishr :: is) = runScheduled s (invShiftRows m) is :=
  runScheduled_cons rfl fun t _ _ hm => by rw [exec_ishr, hm]

theorem runScheduled_imixc : runScheduled s m (.imixc :: is) = runScheduled s (invMixColumns m) is :=
  runScheduled_cons rfl fun t _ _ hm => by rw [exec_imixc, hm]

/-- The immediate of ARK that names a round key (30_encoding.md R92). -/
def roundImmediate (rnd : Fin 11) : BitVec 4 := BitVec.ofNat 4 rnd.val

theorem runScheduled_ark (rnd : Fin 11) : runScheduled s m (.ark (roundImmediate rnd) :: is) =
    runScheduled s (addRoundKey m (expandKey s.key) rnd) is := by
  have himm : (roundImmediate rnd).toNat = rnd.val := by revert rnd; decide
  have hr : (roundImmediate rnd).toNat < 11 := by rw [himm]; exact rnd.isLt
  have hrnd : (⟨(roundImmediate rnd).toNat, hr⟩ : Fin 11) = rnd := Fin.ext himm
  refine runScheduled_cons (decide_eq_true (by omega)) fun t _ hw hm => ?_
  rw [exec_ark t _ hr, hw, hm, hrnd]

/-! ### Rounds of single-step commands -/

/-- The commands of a full round are the round of the cipher (44_cipher_driver.md R220, R227). -/
theorem runScheduled_encRound (rnd : Fin 11) : runScheduled s m (roundCommands (roundImmediate rnd) ++ is) =
    runScheduled s (encRound (expandKey s.key) m rnd) is := by
  simp only [roundCommands, List.cons_append, List.nil_append, runScheduled_subb, runScheduled_shr, runScheduled_mixc,
    runScheduled_ark, encRound]

/-- The commands of an intermediate round are the round of the inverse cipher (44_cipher_driver.md R221, R227). -/
theorem runScheduled_decRound (rnd : Fin 11) : runScheduled s m (invRoundCommands (roundImmediate rnd) ++ is) =
    runScheduled s (decRound (expandKey s.key) m rnd) is := by
  simp only [invRoundCommands, List.cons_append, List.nil_append, runScheduled_ishr, runScheduled_isubb, runScheduled_imixc,
    runScheduled_ark, decRound]

/-- Rounds whose commands do what `round` does, one after another. -/
theorem runScheduled_rounds {commands : BitVec 4 → List Instr} {round : StateMatrix → Fin 11 → StateMatrix}
    (hround : ∀ m is rnd, runScheduled s m (commands (roundImmediate rnd) ++ is) = runScheduled s (round m rnd) is)
    (rnds : List (Fin 11)) : runScheduled s m ((rnds.map roundImmediate).flatMap commands ++ is) =
      runScheduled s (rnds.foldl round m) is := by
  induction rnds generalizing m with
  | nil => rfl
  | cons rnd rnds ih => rw [List.map_cons, List.flatMap_cons, List.append_assoc, hround, ih, List.foldl_cons]

/-! ### The two drivers as runs -/

/-- What a driver leaves, with nothing more to come (44_cipher_driver.md R223, R224). -/
def afterDriver (rounds : Vector Word 44 → StateMatrix → StateMatrix) (s : State) : State :=
  let m := rounds (expandKey s.key) (deserialize (blockOfRegs s.din))
  { scheduled s m [] with dout := regsOfMatrix m }

theorem run_enc (hp : s.pending = none) :
    Host.Core.run Sys2Proof.core 2 { s with inputs := runCommands [.enc] } = .next (afterDriver encRounds s) :=
  run_command (i := .enc) (s := { s with inputs := runCommands [.enc] }) (rest := []) rfl rfl hp (absurd · (by decide)) (exec_enc _) 0

theorem run_dec (hp : s.pending = none) :
    Host.Core.run Sys2Proof.core 2 { s with inputs := runCommands [.dec] } = .next (afterDriver decRounds s) :=
  run_command (i := .dec) (s := { s with inputs := runCommands [.dec] }) (rest := []) rfl rfl hp (absurd · (by decide)) (exec_dec _) 0

/-- The commands of an encryption after KEXP. -/
theorem encSteps_eq : encSteps = .kexp :: .loads :: .ark (roundImmediate 0) ::
    (([1, 2, 3, 4, 5, 6, 7, 8, 9].map roundImmediate).flatMap roundCommands ++
      [.subb, .shr, .ark (roundImmediate 10), .stores]) := rfl

theorem decSteps_eq : decSteps = .kexp :: .loads :: .ark (roundImmediate 10) ::
    (([9, 8, 7, 6, 5, 4, 3, 2, 1].map roundImmediate).flatMap invRoundCommands ++
      [.ishr, .isubb, .ark (roundImmediate 0), .stores]) := rfl

theorem run_encSteps (hp : s.pending = none) :
    Host.Core.run Sys2Proof.core (2 * encSteps.length) { s with inputs := runCommands encSteps } =
      .next (afterDriver encRounds s) := by
  rw [encSteps_eq, run_kexp hp, runScheduled_loads, runScheduled_ark, runScheduled_rounds _ _ runScheduled_encRound,
    runScheduled_subb, runScheduled_shr, runScheduled_ark, runScheduled_stores]
  rfl

theorem run_decSteps (hp : s.pending = none) :
    Host.Core.run Sys2Proof.core (2 * decSteps.length) { s with inputs := runCommands decSteps } =
      .next (afterDriver decRounds s) := by
  rw [decSteps_eq, run_kexp hp, runScheduled_loads, runScheduled_ark, runScheduled_rounds _ _ runScheduled_decRound,
    runScheduled_ishr, runScheduled_isubb, runScheduled_ark, runScheduled_stores]
  rfl

end Machine

open Machine

/-! ### The statements -/

/-- Settles O8: the first step accepts the command (`step_accepts`), the second is its commit (`step_accepted`). -/
theorem commandWriteThenCommitRunsTheCommand : Obligations.CommandWriteThenCommitRunsTheCommand := by
  intro s i rest hwf hp hkv
  have accepts := step_accepts (s := { s with inputs := runCommand i ++ rest }) rfl hwf hp hkv
  exact (run_core_of_step accepts 1).trans ((run_one Sys2Proof.core _).trans (step_accepted hwf))

/-- Settles O58: the single steps do to S what the rounds of the driver do (`runScheduled_rounds`), and both runs end in
`afterDriver`. -/
theorem singleStepsEqualTheDrivers : Obligations.SingleStepsEqualTheDrivers := by
  intro s hp
  rw [run_encSteps hp, run_decSteps hp, run_enc hp, run_dec hp]
  exact ⟨rfl, rfl, _, _, rfl, rfl⟩

end Sys2Proof
